-- ==== Sys2Proof/Word.lean ====
section
/-! DEFINITION. The word types of the block and their plainest names (00_scope.md R11, R12). -/

namespace Sys2Proof

/-- A host bus word, a command word, a 32-bit register (20_memory.md R35). -/
abbrev Word := BitVec 32

/-- A byte (00_scope.md R11). -/
abbrev Byte := BitVec 8

/-- One bit of the bitstream, of the scrambler's output or of the classifier (00_scope.md R11). -/
abbrev Bit := BitVec 1

/-- The scrambler's 15-bit state (10_state.md R18). -/
abbrev Scrambler := BitVec 15

/-- A byte address `A[16:0]` of the host space (20_memory.md R34). -/
abbrev HostAddr := BitVec 17

/-- The 10-bit line-index field of a command word (30_encoding.md R46). -/
abbrev LineField := BitVec 10

end Sys2Proof
end

