-- ==== Sys2Proof/Config.lean ====
section
/-! DEFINITION. What is fixed for the life of the hardware: the constants of 00_scope.md R6 and R7, the open
parameters of R8, and the free values the spec calls "any value" (93_implementation_defined.md). -/

namespace Sys2Proof

namespace Config

/-! ## Fixed constants (00_scope.md R6, R7) -/

/-- Scrambler advances between the seeds of consecutive lines. -/
def stepsPerLine : Nat := 648
/-- Polarity −1 at or below this intensity. -/
def thrLow : Byte := 0x55#8
/-- Polarity +1 strictly above this intensity. -/
def thrHigh : Byte := 0xAA#8
/-- Bits in the synchronization word. -/
def syncBits : Nat := 6
/-- The synchronization pattern of normal polarity. -/
def syncA : BitVec 6 := 0x34#6
/-- The synchronization pattern of inverted polarity. -/
def syncB : BitVec 6 := 0x0B#6
/-- The scan is bounded to `width − 12`. -/
def scanMargin : Nat := 12
/-- Data bits sampled per line. -/
def bitsPerLine : Nat := 99
/-- Bitstream stride per packet. -/
def pktBits : Nat := 751
/-- Bytes per packet buffer. -/
def pktBytes : Nat := 94
/-- Packets per frame. -/
def pktsPerFrame : Nat := 82
/-- Added to the synchronizer's offset to reach the first sync-bit sample. -/
def dataAdj : Int := 1
/-- Smallest WIDTH for which DECODE_FRAME is not MalformedInput. -/
def minWidth : Nat := 13
/-- Intensity of a sample position outside the raster. -/
def oorValue : Byte := 0x00#8
/-- Payload bytes exposed per packet. -/
def payloadBytes : Nat := 91
/-- Entries of each per-line window, the upper bound of `L`. -/
def maxLines : Nat := 1024
/-- Largest raster width or height: coordinates are 16-bit (20_memory.md R34). -/
def maxExtent : Nat := 65535

end Config

/-- The open parameters of 00_scope.md R8, with their legal ranges. A value outside its range cannot be written: the
proof field is R8's "a model refuses to elaborate". The default values only let Lean see that the type is inhabited;
nothing in the model uses them. -/
structure Params where
  /-- Scrambler state of line 0. -/
  seed0 : Scrambler := 0#15
  /-- Numerator of the sample spacing. -/
  n : Nat := 1
  /-- Denominator of the sample spacing. -/
  d : Nat := 1
  /-- Sub-sample phase, in units of `1/D` sample. -/
  ph : Nat := 0
  /-- Raster row of line 0. -/
  row0 : Nat := 0
  /-- Lines per frame, including the zero lines. -/
  l : Nat := 623
  /-- Number of leading zero lines. -/
  z : Nat := 1
  /-- The legal ranges of R8. -/
  legal : (1 ≤ n ∧ n ≤ 65535) ∧ (1 ≤ d ∧ d ≤ 65535) ∧ ph < d ∧ row0 ≤ 65535 ∧
    (623 ≤ l ∧ l ≤ 1024) ∧ (1 ≤ z ∧ z < l) := by decide
  deriving DecidableEq, Repr, Inhabited

/-- The parameters this hardware was built with: some legal value, which nothing in Lean can evaluate
(00_scope.md R8, log 1). -/
opaque Config.params : Params

/-- The `k`-th free value of `w` bits: what the spec calls "any value" or "a draw" (93_implementation_defined.md I5,
I8, I9; log 4). It has no body, so no proof can know a value of it. -/
opaque Config.draw (w k : Nat) : BitVec w

end Sys2Proof
end

