-- ==== Sys2Proof/Syntax.lean ====
section
/-! DEFINITION. The seven commands of 30_encoding.md R47, one constructor per row of spec/opcode_table.json. -/

namespace Sys2Proof

/-- A command with its operand (30_encoding.md R46, R47). -/
inductive Instr where
  /-- LFSR_STEP (40_scrambler.md R62). -/
  | lfsrStep
  /-- LFSR_SEED n (40_scrambler.md R63). -/
  | lfsrSeed (n : LineField)
  /-- CLASSIFY v (41_classifier.md R67). -/
  | classify (v : Byte)
  /-- FIND_SYNC n (42_synchronizer.md R74). -/
  | findSync (n : LineField)
  /-- SAMPLE_LINE n (43_sampler.md R79). -/
  | sampleLine (n : LineField)
  /-- DECODE_FRAME (44_frame.md R86). -/
  | decodeFrame
  /-- SPLIT_PACKETS (45_packets.md R95). -/
  | splitPackets
  deriving DecidableEq, Repr

end Sys2Proof
end

