-- ==== Sys2Proof/WellFormed.lean ====
section
/-! DEFINITION. Which commands are legal under given parameters (30_encoding.md R49). -/

namespace Sys2Proof

/-- A line index names a line of the frame (30_encoding.md R49 (b)). -/
def lineInFrame (p : Params) (n : LineField) : Bool := decide (n.toNat < p.l)

/-- A command is well formed when R49 (b) does not make it illegal: FIND_SYNC and SAMPLE_LINE need `n < L`; LFSR_SEED
takes every `n`, and the other commands have no line index. -/
def WellFormed (p : Params) : Instr → Bool
  | .lfsrStep => true
  | .lfsrSeed _ => true
  | .classify _ => true
  | .findSync n => lineInFrame p n
  | .sampleLine n => lineInFrame p n
  | .decodeFrame => true
  | .splitPackets => true

end Sys2Proof
end

