-- ==== Sys2Proof/Decode.lean ====
section
/-! DEFINITION. The command decoder and encoder (30_encoding.md R46 to R49, R51), and the assembler (R52). -/

namespace Sys2Proof

/-- Why a word is no command: its opcode is reserved (30_encoding.md R49 (a)). -/
inductive DecodeError where
  /-- `OP = 0x0` or `OP ≥ 0x8`; the field is the opcode. -/
  | reservedOpcode (op : BitVec 4)
  deriving DecidableEq, Repr

/-- `OP = c[31:28]` (30_encoding.md R46). -/
def opField (c : Word) : BitVec 4 := c.extractLsb' 28 4

/-- `n = c[9:0]` (30_encoding.md R46). -/
def nField (c : Word) : LineField := c.extractLsb' 0 10

/-- `v = c[7:0]` (30_encoding.md R46). -/
def vField (c : Word) : Byte := c.extractLsb' 0 8

/-- The decoder: total on every 32-bit word, and it reads only `c[31:28]` and the operand field of the opcode
(30_encoding.md R47, R48, R49 (a)). -/
def decode (c : Word) : Except DecodeError Instr :=
  match (opField c).toNat with
  | 1 => .ok .lfsrStep
  | 2 => .ok (.lfsrSeed (nField c))
  | 3 => .ok (.classify (vField c))
  | 4 => .ok (.findSync (nField c))
  | 5 => .ok (.sampleLine (nField c))
  | 6 => .ok .decodeFrame
  | 7 => .ok .splitPackets
  | _ => .error (.reservedOpcode (opField c))

/-- The command a word stands for under given parameters: none when R49 calls the word illegal, for its opcode or for
its line index. -/
def legalCommand (p : Params) (c : Word) : Option Instr :=
  match decode c with
  | .ok i => if WellFormed p i then some i else none
  | .error _ => none

/-- A command word with opcode `op`, operand `x` in bits 9:0 and 0 in every ignored bit (30_encoding.md R46, R52). -/
def commandWord (op : BitVec 4) (x : BitVec 10) : Word := op ++ (0#18 ++ x)

/-- The encoder, `OP << 28 | operand` (30_encoding.md R47, R52). -/
def encode : Instr → Word
  | .lfsrStep => commandWord 1#4 0#10
  | .lfsrSeed n => commandWord 2#4 n
  | .classify v => commandWord 3#4 (v.setWidth 10)
  | .findSync n => commandWord 4#4 n
  | .sampleLine n => commandWord 5#4 n
  | .decodeFrame => commandWord 6#4 0#10
  | .splitPackets => commandWord 7#4 0#10

/-- The command the decoder reads from a word given as a number, its bits above `nbits` being 0. A command is one
32-bit word written in one bus access (30_encoding.md R51), so no byte order enters. -/
def decodeTableWord (nbits w : Nat) : Option Instr :=
  (decode (BitVec.ofNat 32 (w % 2 ^ nbits))).toOption

/-! ## Assembler syntax (30_encoding.md R52) -/

/-- The value of a digit in base 10 or 16. -/
def digitValue (base : Nat) (ch : Char) : Option Nat :=
  let k := ch.toNat
  let v := if 48 ≤ k ∧ k ≤ 57 then some (k - 48)
    else if 65 ≤ k ∧ k ≤ 70 then some (k - 55)
    else if 97 ≤ k ∧ k ≤ 102 then some (k - 87)
    else none
  v.filter (· < base)

/-- An unsigned number read digit by digit; none on a foreign character. -/
def readDigits (base : Nat) : List Char → Nat → Option Nat
  | [], acc => some acc
  | ch :: rest, acc => (digitValue base ch).bind fun v => readDigits base rest (acc * base + v)

/-- A decimal or `0x`-prefixed hexadecimal unsigned number (R52). -/
def readNumber : List Char → Option Nat
  | [] => none
  | '0' :: 'x' :: rest => if rest.isEmpty then none else readDigits 16 rest 0
  | cs => readDigits 10 cs 0

/-- The words of a line, split at spaces. -/
def lineWords : List Char → List Char → List (List Char)
  | [], acc => if acc.isEmpty then [] else [acc.reverse]
  | ch :: rest, acc =>
    if ch = ' ' then (if acc.isEmpty then [] else [acc.reverse]) ++ lineWords rest []
    else lineWords rest (ch :: acc)

/-- A line-index operand; the assembler rejects `n > 1023` (R52). -/
def lineOperand (cs : List Char) : Option LineField :=
  (readNumber cs).bind fun k => if k ≤ 1023 then some (BitVec.ofNat 10 k) else none

/-- An intensity operand; the assembler rejects `v > 255` (R52). -/
def intensityOperand (cs : List Char) : Option Byte :=
  (readNumber cs).bind fun k => if k ≤ 255 then some (BitVec.ofNat 8 k) else none

/-- The command one line of assembler text names (R52; log 11 for white space). -/
def parseCommand (line : List Char) : Option Instr :=
  match lineWords line [] with
  | [m] =>
    if m = "LFSR_STEP".toList then some .lfsrStep
    else if m = "DECODE_FRAME".toList then some .decodeFrame
    else if m = "SPLIT_PACKETS".toList then some .splitPackets
    else none
  | [m, x] =>
    if m = "LFSR_SEED".toList then (lineOperand x).map .lfsrSeed
    else if m = "CLASSIFY".toList then (intensityOperand x).map .classify
    else if m = "FIND_SYNC".toList then (lineOperand x).map .findSync
    else if m = "SAMPLE_LINE".toList then (lineOperand x).map .sampleLine
    else none
  | _ => none

/-- The assembler: the word of one line of text, or none where it rejects the line (R52). -/
def assemble (line : String) : Option Word := (parseCommand line.toList).map encode

end Sys2Proof
end

