-- ==== Sys2Proof/Machine/State.lean ====
section
/-! DEFINITION. The state of the block, of its raster supplier and of its host port, the reasons a step can stop, and
the state after reset (10_state.md, 70_reset_and_hazards.md R112). -/

namespace Sys2Proof.Machine

/-- A sparse memory of `w`-bit cells: (address, value) pairs, addresses strictly rising, no value 0. An unlisted
address reads 0, which is what reset leaves in every buffer (70_reset_and_hazards.md R112). At `w = 8` it is a list of
`Host.Cell`. -/
abbrev Memory (w : Nat) := List (Nat × BitVec w)

/-- The raster supplier's grid (20_memory.md R34 (b), R40). The sample at column `x`, row `y` is the cell keyed
`65536·y + x`; a sample of the grid that is not listed is 0x00 (log 6). -/
structure Raster where
  /-- Width in samples. -/
  width : Nat
  /-- Height in rows. -/
  height : Nat
  /-- The samples that are not 0x00. -/
  cells : List Host.Cell
  deriving DecidableEq, Repr

/-- `ENG`, the engine's state (10_state.md R26). -/
inductive Engine where
  /-- No command in flight. -/
  | idle
  /-- The command word `c` is being executed. -/
  | busy (c : Word)
  deriving DecidableEq, Repr

/-- One event of the total order of 20_memory.md R42. -/
inductive Event where
  /-- The host's `MemRead(addr, 4)`. -/
  | hostRead (addr : HostAddr)
  /-- The host's `MemWrite(addr, 4, v)`. -/
  | hostWrite (addr : HostAddr) (v : Word)
  /-- The engine's completion step (10_state.md R27); nothing happens when no command is in flight. -/
  | engineStep
  /-- The platform asserts the reset input (70_reset_and_hazards.md R111). -/
  | assertReset
  /-- The platform releases the reset input. -/
  | releaseReset
  /-- The supplier presents this raster from now on (00_scope.md R3). -/
  | supplyRaster (r : Raster)
  deriving DecidableEq, Repr

/-- Everything the spec gives the machine (10_state.md R15), the inputs it reads, and the model's own fields
(INVENTORY.md, State). -/
structure State where
  /-- The open parameters that `CONFIG0..CONFIG3` report (10_state.md R25). -/
  params : Params
  /-- `CMD` (R16). -/
  cmd : Word
  /-- `STATUS` (R17). -/
  status : Word
  /-- `LFSR` (R18). -/
  lfsr : Scrambler
  /-- `OFFSET`, a signed position in two's complement (R21). -/
  offset : Word
  /-- `RESULT` (R22). -/
  result : Word
  /-- `WIDTH` (R23). -/
  width : BitVec 16
  /-- `HEIGHT` (R24). -/
  height : BitVec 16
  /-- `ENG` (R26). -/
  eng : Engine
  /-- `BITSTREAM`, keyed by bit index (R28). -/
  bitstream : Memory 1
  /-- `LINE_OFS`, keyed by line index (R29). -/
  lineOfs : Memory 32
  /-- `LINE_FLAGS`, keyed by line index (R30). -/
  lineFlags : Memory 4
  /-- `PKT`, byte `b` of packet `p` keyed `94·p + b` (R31). -/
  pkt : Memory 8
  /-- The raster the supplier presents: an input, not state of the block (R33). -/
  raster : Raster
  /-- The reset input is asserted (70_reset_and_hazards.md R111). -/
  inReset : Bool
  /-- The model's own: the events still to come, next first (log 2). -/
  pending : List Event
  /-- The model's own: what the host's reads returned, newest first (log 9). -/
  reads : List Word
  /-- The model's own: how many free values have been drawn (log 4). -/
  draws : Nat
  /-- The model's own: the raster changed while the command in flight was in flight (log 5). -/
  disturbed : Bool
  /-- The model's own: a command was accepted and no STATUS read has returned BUSY = 0 since (log 12). -/
  unpolled : Bool
  deriving DecidableEq, Repr

/-- Why the machine stops with a fault. -/
inductive Fault where
  /-- A host access with `A[1:0] ≠ 00`: raised by `hostAccess` (20_memory.md R35, 60_exceptions.md R102). Safe: the
  spec makes it a fault of the host program, and nothing is said about the hardware after it. -/
  | busError
  deriving DecidableEq, Repr

/-- Why a step is given no meaning. -/
inductive Refusal where
  /-- The instruction has no meaning yet: raised by `exec`'s arm. Safe: no step is taken. -/
  | notModelled (mnemonic : String)
  /-- A host access while reset is asserted: raised by `hostAccess` (70_reset_and_hazards.md R111). Safe: the spec says
  a model refuses it. -/
  | accessInReset
  /-- A raster wider or taller than 65535: raised by `supplyRaster` (20_memory.md R34, I10). Safe: the spec says a
  model refuses it. -/
  | rasterTooLarge
  deriving DecidableEq, Repr

/-- The machine right after reset, built with the parameters `p` (70_reset_and_hazards.md R112; logs 2, 4, 5, 6, 9, 12
for the model's own fields). -/
def State.resetWith (p : Params) : State where
  params := p
  cmd := 0#32
  status := 0#32
  lfsr := p.seed0
  offset := 0#32
  result := 0#32
  width := 0#16
  height := 0#16
  eng := .idle
  bitstream := []
  lineOfs := []
  lineFlags := []
  pkt := []
  raster := { width := 0, height := 0, cells := [] }
  inReset := false
  pending := []
  reads := []
  draws := 0
  disturbed := false
  unpolled := false

/-- The machine right after reset (70_reset_and_hazards.md R112), with the parameters the hardware was built with. -/
def State.reset : State := State.resetWith Config.params

end Sys2Proof.Machine
end

