-- ==== Sys2Proof/Machine/Flags.lean ====
section
/-! DEFINITION. The fields of STATUS (10_state.md R17), the flag computations, and the conditions of
60_exceptions.md R96. -/

namespace Sys2Proof.Machine

/-! ## The bits of STATUS (10_state.md R17) -/

def busyBit : Nat := 0
def doneBit : Nat := 1
def syncFoundBit : Nat := 2
def syncPatBit : Nat := 3
def oorBit : Nat := 4
def syncFailBit : Nat := 5
def errIllegalBit : Nat := 8
def errBusyBit : Nat := 9
def errMalformedBit : Nat := 10

/-- Bit `k` of a word (00_scope.md R11). -/
def flag (st : Word) (k : Nat) : Bool := st.getLsbD k

/-- `STATUS[k] <- b`: every other bit is kept. -/
def putFlag (st : Word) (k : Nat) (b : Bool) : Word :=
  if b then st ||| (1#32 <<< k) else st &&& ~~~(1#32 <<< k)

/-- `STATUS[10:1] <- 0`: what acceptance clears (30_encoding.md R50). -/
def clearFlags (st : Word) : Word := st &&& 0xFFFFF801#32

/-- The four condition-related flags FIND_SYNC writes (42_synchronizer.md R74). -/
structure SyncFlags where
  found : Bool
  pat : Bool
  fail : Bool
  oor : Bool
  deriving DecidableEq, Repr

/-- FIND_SYNC's flag writes (42_synchronizer.md R74). -/
def putSyncFlags (st : Word) (f : SyncFlags) : Word :=
  putFlag (putFlag (putFlag (putFlag st syncFoundBit f.found) syncPatBit f.pat) syncFailBit f.fail) oorBit f.oor

/-- DECODE_FRAME's flag writes when it is not refused (44_frame.md R85). -/
def putFrameFlags (st : Word) (fail oor : Bool) : Word := putFlag (putFlag st syncFailBit fail) oorBit oor

/-- `{ZERO, L_OOR, PAT, FOUND}` (10_state.md R30). -/
def lineFlagsOf (zero oor pat found : Bool) : BitVec 4 :=
  BitVec.ofBool zero ++ BitVec.ofBool oor ++ BitVec.ofBool pat ++ BitVec.ofBool found

/-! ## Conditions (60_exceptions.md R96) -/

/-- The conditions the block raises; the host bus error is no condition of the engine (R102). -/
inductive Condition where
  | illegalCommand
  | busyWrite
  | malformedInput
  | syncNotFound
  | outOfRange
  deriving DecidableEq, Repr

/-- A condition's code: the STATUS bit that records it (R96). -/
def conditionCode : Condition → Nat
  | .illegalCommand => errIllegalBit
  | .busyWrite => errBusyBit
  | .malformedInput => errMalformedBit
  | .syncNotFound => syncFailBit
  | .outOfRange => oorBit

end Sys2Proof.Machine
end

