-- ==== Sys2Proof/Machine/Ops.lean ====
section
/-! DEFINITION. The shared operations: sparse memory, the bitstream, the raster port, raising a condition, accepting,
refusing and completing a command, and reset. -/

namespace Sys2Proof.Machine

/-! ## Memory -/

/-- The value at an address; an unlisted address reads 0. -/
def Memory.read {w : Nat} : Memory w → Nat → BitVec w
  | [], _ => 0#w
  | (b, v) :: rest, a => if b = a then v else Memory.read rest a

/-- A list entry for a value, unless the value is what an unlisted address reads. -/
def Memory.cell {w : Nat} (a : Nat) (v : BitVec w) (rest : Memory w) : Memory w :=
  if v = 0#w then rest else (a, v) :: rest

/-- One cell is written; the canonical form is kept. -/
def Memory.write {w : Nat} : Memory w → Nat → BitVec w → Memory w
  | [], a, v => Memory.cell a v []
  | (b, u) :: rest, a, v =>
    if a < b then Memory.cell a v ((b, u) :: rest)
    else if a = b then Memory.cell a v rest
    else (b, u) :: Memory.write rest a v

/-- Consecutive cells are written from `base` upward, in order. -/
def Memory.writeRange {w : Nat} : Memory w → Nat → List (BitVec w) → Memory w
  | m, _, [] => m
  | m, base, v :: vs => Memory.writeRange (Memory.write m base v) (base + 1) vs

/-- The canonical form: addresses strictly rising, no entry equal to what an unlisted address reads. -/
def Memory.wf {w : Nat} : Memory w → Bool
  | [] => true
  | [(_, v)] => decide (v ≠ 0#w)
  | (a, v) :: (b, u) :: rest => decide (v ≠ 0#w) && decide (a < b) && Memory.wf ((b, u) :: rest)

/-- Every listed address is below a bound. -/
def Memory.below {w : Nat} (m : Memory w) (bound : Nat) : Bool := m.all fun cell => decide (cell.1 < bound)

/-! ## The bitstream (00_scope.md R13) -/

/-- `StreamRead(i)`. -/
def streamRead (s : State) (i : Nat) : Bit := s.bitstream.read i

/-- The bits of line `n` replace what `BITSTREAM` held at `99·n .. 99·n + 98` (43_sampler.md R77). -/
def writeLineBits (m : Memory 1) (n : Nat) (bits : List Bit) : Memory 1 :=
  Memory.writeRange m (Config.bitsPerLine * n) bits

/-! ## The raster -/

/-- The key of column `x` of row `y` in a raster's cells (20_memory.md R34 (b)). -/
def rasterKey (x y : Nat) : Nat := 65536 * y + x

/-- A key names a position inside the supplier's grid. -/
def inGrid (r : Raster) (key : Nat) : Bool := decide (key % 65536 < r.width) && decide (key / 65536 < r.height)

/-- The raster with its samples in the canonical form and nothing listed outside the grid (log 10). -/
def normalRaster (r : Raster) : Raster :=
  { r with cells := (r.cells.filter fun c => inGrid r c.1).foldl (fun m c => Memory.write (w := 8) m c.1 c.2) [] }

/-- `RasterRead(x, y)` (20_memory.md R40): the supplier's sample; at a position outside the supplier's grid, any 8-bit
value (70_reset_and_hazards.md R117, I9; log 4). -/
def rasterRead (s : State) (x y : Nat) : Byte :=
  if x < s.raster.width ∧ y < s.raster.height then Memory.read (w := 8) s.raster.cells (rasterKey x y)
  else Config.draw 8 (s.draws + rasterKey x y)

/-- The position is inside `WIDTH × HEIGHT` (42_synchronizer.md R70). -/
def inRange (s : State) (x y : Int) : Bool :=
  decide (0 ≤ x) && decide (x < s.width.toNat) && decide (0 ≤ y) && decide (y < s.height.toNat)

/-- `Sample(x, y)` (42_synchronizer.md R70): the intensity, and how much the per-command out-of-range counter grows. -/
def sample (s : State) (x y : Int) : Byte × Nat :=
  if inRange s x y then (rasterRead s x.toNat y.toNat, 0) else (Config.oorValue, 1)

/-- The host has kept the duties of 70_reset_and_hazards.md R117 for the command in flight: the raster has not changed
since acceptance, and `WIDTH` and `HEIGHT` are the supplier's (log 5). -/
def rasterStable (s : State) : Bool :=
  !s.disturbed && decide (s.width.toNat = s.raster.width) && decide (s.height.toNat = s.raster.height)

/-- `k` more free values have been drawn (log 4). -/
def spendDraws (k : Nat) (s : State) : State := { s with draws := s.draws + k }

/-- `RESULT <- v`. -/
def putResult (v : Word) (s : State) : State := { s with result := v }

/-- The events still to come are now these (log 2). -/
def withPending (rest : List Event) (s : State) : State := { s with pending := rest }

/-! ## Conditions, acceptance, completion -/

/-- Recording a condition (60_exceptions.md R96, R105): its STATUS bit becomes 1. There is no trap: nothing else is
saved, masked or transferred, and there is no return (R106). -/
def raise (k : Condition) (s : State) : State := { s with status := putFlag s.status (conditionCode k) true }

/-- What every host write of a word to `CMD` does while the engine is idle (30_encoding.md R50): the word is stored and
`STATUS[10:1]` cleared. -/
def takeWord (c : Word) (s : State) : State := { s with cmd := c, status := clearFlags s.status }

/-- The rest of the acceptance of a legal word (30_encoding.md R50): `ENG <- Busy(c)`, `BUSY <- 1`. -/
def launch (c : Word) (s : State) : State :=
  { s with
    eng := .busy c
    status := putFlag s.status busyBit true
    disturbed := false
    unpolled := true }

/-- The refusal of an illegal word (60_exceptions.md R97): `ERR_ILLEGAL` and `DONE`. -/
def refuseIllegal (s : State) : State :=
  let t := raise .illegalCommand s
  { t with status := putFlag t.status doneBit true }

/-- A host write to `CMD` (30_encoding.md R50). -/
def writeCmd (c : Word) (s : State) : State :=
  match s.eng with
  | .busy _ => raise .busyWrite s
  | .idle =>
    match legalCommand s.params c with
    | none => refuseIllegal (takeWord c s)
    | some _ => launch c (takeWord c s)

/-- The end of a command (10_state.md R27): `BUSY <- 0`, `DONE <- 1`, `ENG <- Idle`. -/
def complete (s : State) : State :=
  { s with
    status := putFlag (putFlag s.status busyBit false) doneBit true
    eng := .idle
    disturbed := false }

/-- An illegal word that is in flight all the same is not executed (30_encoding.md R49, log 8): it ends with
`ERR_ILLEGAL` and `DONE` and no other effect. No run reaches this. -/
def abandonIllegal (s : State) : State := complete (raise .illegalCommand s)

/-! ## Reset (70_reset_and_hazards.md R111, R112) -/

/-- Every piece of the block's state takes its reset value and a command in flight is aborted; the parameters, the
supplier's raster, the events to come, the host's record and the draw counter are not the block's (log 7). -/
def resetBlock (s : State) : State :=
  { State.resetWith s.params with
    raster := s.raster
    inReset := s.inReset
    pending := s.pending
    reads := s.reads
    draws := s.draws }

/-- The reset input is asserted. -/
def assertReset (s : State) : State := { resetBlock s with inReset := true }

/-- The reset input is released. -/
def releaseReset (s : State) : State := { resetBlock s with inReset := false }

/-! ## The supplier's raster -/

/-- The supplier presents a raster: refused when too large (20_memory.md R34, I10); while a command is in flight a
different raster breaks the host's duty of 70_reset_and_hazards.md R117 (log 10). -/
def supplyRaster (r : Raster) (s : State) : Host.Outcome State Fault Refusal :=
  if Config.maxExtent < r.width ∨ Config.maxExtent < r.height then .refused .rasterTooLarge
  else .next { s with
    raster := normalRaster r
    disturbed := match s.eng with
      | .idle => false
      | .busy _ => s.disturbed || decide (normalRaster r ≠ s.raster) }

end Sys2Proof.Machine
end

