-- ==== Sys2Proof/Machine/Operands.lean ====
section
/-! DEFINITION. The operand forms: line index, row, bit grid, signed offset, and the extensions of 00_scope.md R12. -/

namespace Sys2Proof.Machine

/-- A line-index operand: `c[9:0]`, zero-extended (30_encoding.md R46). -/
def lineIndex (n : LineField) : Nat := n.toNat

/-- The line operand names a line of the frame (30_encoding.md R49 (b)). -/
def lineLegal (s : State) (n : LineField) : Bool := lineInFrame s.params n

/-- `y(n) = ROW0 + n` (42_synchronizer.md R68). -/
def rowOf (p : Params) (n : Nat) : Int := (p.row0 + n : Nat)

/-- `pos(k) = floor((k·N + PH) / D)` (42_synchronizer.md R69). -/
def pos (p : Params) (k : Nat) : Nat := (k * p.n + p.ph) / p.d

/-- `x_data(ofs, j) = ofs + 1 + pos(6 + j)` (43_sampler.md R75). -/
def dataColumn (p : Params) (ofs : Int) (j : Nat) : Int := ofs + Config.dataAdj + (pos p (Config.syncBits + j) : Int)

/-- `sval(w)`: a 32-bit word read in two's complement (00_scope.md R12). -/
def sval (w : Word) : Int := w.toInt

/-- `sext_32(v)`: the 32-bit two's-complement encoding of a signed integer (00_scope.md R12). -/
def sext32 (v : Int) : Word := BitVec.ofInt 32 v

/-- `zext_32` of a count (00_scope.md R12). -/
def zext32 (v : Nat) : Word := BitVec.ofNat 32 v

end Sys2Proof.Machine
end

