-- ==== Sys2Proof/Machine/Classifier.lean ====
section
/-! DEFINITION. The sample classifier and its command (41_classifier.md). -/

namespace Sys2Proof.Machine

/-- The ternary class of a sample (00_scope.md R14). -/
inductive Polarity where
  /-- −1 -/
  | minus
  /-- 0 -/
  | zero
  /-- +1 -/
  | plus
  deriving DecidableEq, Repr

/-- `polarity(v)` (41_classifier.md R64). -/
def polarity (v : Byte) : Polarity :=
  if v ≤ Config.thrLow then .minus
  else if v > Config.thrHigh then .plus
  else .zero

/-- `bit_value(p)` (41_classifier.md R65). -/
def bitValue : Polarity → Bit
  | .plus => 1#1
  | .zero => 0#1
  | .minus => 0#1

/-- `classify(v)` (41_classifier.md R66). -/
def classify (v : Byte) : Bit := bitValue (polarity v)

/-- The 2-bit two's-complement code of a polarity (41_classifier.md R67). -/
def polarityCode : Polarity → BitVec 2
  | .minus => 0b11#2
  | .zero => 0b00#2
  | .plus => 0b01#2

/-- CLASSIFY's result: `RESULT[8]` the bit, `RESULT[1:0]` the code, every other bit 0 (41_classifier.md R67; log 13 for
the rule's `7'b0`). -/
def classifyResult (v : Byte) : Word :=
  (bitValue (polarity v) ++ 0#6 ++ polarityCode (polarity v)).setWidth 32

/-- CLASSIFY v (41_classifier.md R67). -/
def execClassify (v : Byte) (s : State) : Host.Outcome State Fault Refusal :=
  .next (complete (putResult (classifyResult v) s))

end Sys2Proof.Machine
end

