-- ==== Sys2Proof/Machine/Scrambler.lean ====
section
/-! DEFINITION. The scrambler sequence generator and its two commands (40_scrambler.md). -/

namespace Sys2Proof.Machine

/-- `advance(S)`: the new state and the bit shifted out (40_scrambler.md R55). -/
def advance (S : Scrambler) : Scrambler × Bit :=
  let out : Bit := S.extractLsb' 0 1
  let fb : Bit := S.extractLsb' 0 1 ^^^ S.extractLsb' 14 1
  (fb ++ S.extractLsb' 1 14, out)

/-- The state after `k` advances. -/
def advanceN : Nat → Scrambler → Scrambler
  | 0, S => S
  | k + 1, S => advanceN k (advance S).1

/-- `o_t`, the output of the `t`-th advance from `S` (40_scrambler.md R58). -/
def scramblerBit (S : Scrambler) (t : Nat) : Bit := (advance (advanceN t S)).2

/-- `seed(n)`: `SEED0` advanced `648·n` times (40_scrambler.md R56). -/
def seed (p : Params) (n : Nat) : Scrambler := advanceN (Config.stepsPerLine * n) p.seed0

/-- LFSR_STEP's registers (40_scrambler.md R62). -/
def stepScrambler (s : State) : State :=
  { s with lfsr := (advance s.lfsr).1, result := (advance s.lfsr).2.setWidth 32 }

/-- LFSR_SEED's registers (40_scrambler.md R63). -/
def loadSeed (n : Nat) (s : State) : State :=
  { s with lfsr := seed s.params n, result := (seed s.params n).setWidth 32 }

/-- LFSR_STEP (40_scrambler.md R62). -/
def execLfsrStep (s : State) : Host.Outcome State Fault Refusal := .next (complete (stepScrambler s))

/-- LFSR_SEED n (40_scrambler.md R63); every `n` in 0..1023 is legal. -/
def execLfsrSeed (n : LineField) (s : State) : Host.Outcome State Fault Refusal :=
  .next (complete (loadSeed (lineIndex n) s))

end Sys2Proof.Machine
end

