-- ==== Sys2Proof/Machine/Synchronizer.lean ====
section
/-! DEFINITION. The line synchronizer and its command (42_synchronizer.md). -/

namespace Sys2Proof.Machine

/-- The bits `k, k+1, …` of a synchronization word, `m` of them, shifted into `w` from the right, and the
out-of-range positions counted onto `oor` (42_synchronizer.md R71). -/
def syncWordFrom (s : State) (x y : Int) : Nat → Nat → BitVec 6 → Nat → BitVec 6 × Nat
  | 0, _, w, oor => (w, oor)
  | m + 1, k, w, oor =>
    let v := sample s (x + (pos s.params k : Int)) y
    syncWordFrom s x y m (k + 1) ((w <<< 1) ||| (classify v.1).setWidth 6) (oor + v.2)

/-- `sync_word(x, y)`, with its count of out-of-range positions (42_synchronizer.md R71). -/
def syncWord (s : State) (x y : Int) : BitVec 6 × Nat := syncWordFrom s x y Config.syncBits 0 0#6 0

/-- What a search returns, `(found, pat, ofs)` (42_synchronizer.md R72), with its count of out-of-range positions. -/
structure SyncResult where
  found : Bool
  pat : Bool
  ofs : Int
  oor : Nat
  deriving DecidableEq, Repr

/-- The failure value, `bound − 1 = WIDTH − 13` (42_synchronizer.md R72, 90_conflicts.md C2). -/
def failOffset (s : State) : Int := (s.width.toNat : Int) - Config.scanMargin - 1

/-- The candidates `x, x+1, …`, `m` of them, are tried from left to right (42_synchronizer.md R72). -/
def scanFrom (s : State) (y : Int) : Nat → Nat → Nat → SyncResult
  | 0, _, oor => { found := false, pat := false, ofs := failOffset s, oor := oor }
  | m + 1, x, oor =>
    let w := syncWord s x y
    if w.1 = Config.syncA then { found := true, pat := false, ofs := (x : Int) - 1, oor := oor + w.2 }
    else if w.1 = Config.syncB then { found := true, pat := true, ofs := (x : Int) - 1, oor := oor + w.2 }
    else scanFrom s y m (x + 1) (oor + w.2)

/-- `find_sync(n)` (42_synchronizer.md R72): candidates `0 .. WIDTH − 13`, none when `WIDTH ≤ 12`. -/
def findSync (s : State) (n : Nat) : SyncResult :=
  scanFrom s (rowOf s.params n) (s.width.toNat - Config.scanMargin) 0 0

/-- What FIND_SYNC writes (42_synchronizer.md R74). -/
structure SyncOutputs where
  offset : Word
  result : Word
  flags : SyncFlags
  deriving DecidableEq, Repr

/-- FIND_SYNC's outputs by the rule (42_synchronizer.md R74). -/
def syncOutputs (s : State) (n : Nat) : SyncOutputs :=
  let r := findSync s n
  { offset := sext32 r.ofs
    result := zext32 r.oor
    flags := { found := r.found, pat := r.pat, fail := !r.found, oor := decide (0 < r.oor) } }

/-- FIND_SYNC's outputs when the host broke its duties: any values (70_reset_and_hazards.md R117; log 5). -/
def drawnSyncOutputs (d : Nat) : SyncOutputs :=
  let f := Config.draw 4 (d + 2)
  { offset := Config.draw 32 d
    result := Config.draw 32 (d + 1)
    flags := { found := f.getLsbD 0, pat := f.getLsbD 1, fail := f.getLsbD 2, oor := f.getLsbD 3 } }

/-- FIND_SYNC's writes (42_synchronizer.md R74). -/
def putSyncOutputs (o : SyncOutputs) (s : State) : State :=
  { s with offset := o.offset, result := o.result, status := putSyncFlags s.status o.flags }

/-- FIND_SYNC's effect on a legal line (42_synchronizer.md R74, 70_reset_and_hazards.md R117). -/
def searchLine (n : Nat) (s : State) : State :=
  if rasterStable s then putSyncOutputs (syncOutputs s n) s
  else putSyncOutputs (drawnSyncOutputs s.draws) (spendDraws 3 s)

/-- FIND_SYNC n (42_synchronizer.md R74); `n ≥ L` is not executed (30_encoding.md R49, log 8). -/
def execFindSync (n : LineField) (s : State) : Host.Outcome State Fault Refusal :=
  .next (if lineLegal s n then complete (searchLine (lineIndex n) s) else abandonIllegal s)

end Sys2Proof.Machine
end

