-- ==== Sys2Proof/Machine/Sampler.lean ====
section
/-! DEFINITION. The line sampler with its descrambling XOR, and its command (43_sampler.md). -/

namespace Sys2Proof.Machine

/-- What sampling a line returns: the bits in sampling order, the final scrambler state, the count of out-of-range
positions (43_sampler.md R76). -/
structure LineSamples where
  bits : List Bit
  scrambler : Scrambler
  oor : Nat
  deriving DecidableEq, Repr

/-- Data bits `j, j+1, …`, `m` of them, of the row `y` from scrambler state `S` (43_sampler.md R76). -/
def sampleFrom (s : State) (y ofs : Int) : Nat → Nat → Scrambler → LineSamples
  | 0, _, S => { bits := [], scrambler := S, oor := 0 }
  | m + 1, j, S =>
    let v := sample s (dataColumn s.params ofs j) y
    let a := advance S
    let rest := sampleFrom s y ofs m (j + 1) a.1
    { bits := (classify v.1 ^^^ a.2) :: rest.bits, scrambler := rest.scrambler, oor := v.2 + rest.oor }

/-- `sample_line(n, ofs, S)` (43_sampler.md R76). -/
def sampleLine (s : State) (n : Nat) (ofs : Int) (S : Scrambler) : LineSamples :=
  sampleFrom s (rowOf s.params n) ofs Config.bitsPerLine 0 S

/-- What SAMPLE_LINE writes (43_sampler.md R79). -/
structure SampleOutputs where
  bits : List Bit
  lfsr : Scrambler
  result : Word
  oor : Bool
  deriving DecidableEq, Repr

/-- SAMPLE_LINE's outputs by the rule: from `sval(OFFSET)` and `LFSR` (43_sampler.md R79). -/
def sampleOutputs (s : State) (n : Nat) : SampleOutputs :=
  let r := sampleLine s n (sval s.offset) s.lfsr
  { bits := r.bits, lfsr := r.scrambler, result := zext32 r.oor, oor := decide (0 < r.oor) }

/-- `m` free bits, from the `d`-th draw on. -/
def drawnBits (d m : Nat) : List Bit := (List.range m).map fun j => Config.draw 1 (d + j)

/-- SAMPLE_LINE's outputs when the host broke its duties: any values (70_reset_and_hazards.md R117; log 5). -/
def drawnSampleOutputs (d : Nat) : SampleOutputs :=
  { bits := drawnBits d 99
    lfsr := Config.draw 15 (d + 99)
    result := Config.draw 32 (d + 100)
    oor := (Config.draw 1 (d + 101)).getLsbD 0 }

/-- SAMPLE_LINE's writes (43_sampler.md R77, R79). -/
def putSampleOutputs (n : Nat) (o : SampleOutputs) (s : State) : State :=
  { s with
    bitstream := writeLineBits s.bitstream n o.bits
    lfsr := o.lfsr
    result := o.result
    status := putFlag s.status oorBit o.oor }

/-- SAMPLE_LINE's effect on a legal line (43_sampler.md R79, 70_reset_and_hazards.md R117). -/
def storeLine (n : Nat) (s : State) : State :=
  if rasterStable s then putSampleOutputs n (sampleOutputs s n) s
  else putSampleOutputs n (drawnSampleOutputs s.draws) (spendDraws 102 s)

/-- SAMPLE_LINE n (43_sampler.md R79); `n ≥ L` is not executed (30_encoding.md R49, log 8). -/
def execSampleLine (n : LineField) (s : State) : Host.Outcome State Fault Refusal :=
  .next (if lineLegal s n then complete (storeLine (lineIndex n) s) else abandonIllegal s)

end Sys2Proof.Machine
end

