-- ==== Sys2Proof/Machine/Frame.lean ====
section
/-! DEFINITION. The frame decoder and its command (44_frame.md). -/

namespace Sys2Proof.Machine

/-- MalformedInput (44_frame.md R80). -/
def malformed (s : State) : Bool :=
  decide (s.width.toNat < Config.minWidth) || decide (s.height.toNat < s.params.row0 + s.params.l)

/-- What DECODE_FRAME builds up line by line (44_frame.md R86): the three buffers, the count of failed lines, and
whether a data line had an out-of-range position. -/
structure FrameOutputs where
  bitstream : Memory 1
  lineOfs : Memory 32
  lineFlags : Memory 4
  fails : Nat
  anyOor : Bool
  deriving DecidableEq, Repr

/-- A zero line (44_frame.md R81). -/
def zeroLine (n : Nat) (f : FrameOutputs) : FrameOutputs :=
  { f with
    bitstream := writeLineBits f.bitstream n (List.replicate Config.bitsPerLine 0#1)
    lineOfs := Memory.write f.lineOfs n 0#32
    lineFlags := Memory.write f.lineFlags n (lineFlagsOf true false false false) }

/-- A data line (44_frame.md R82, R83, R84): the search, then the sampling at the returned offset whether or not it
matched, descrambled from `seed(n)`. -/
def dataLine (s : State) (n : Nat) (f : FrameOutputs) : FrameOutputs :=
  let r := findSync s n
  let q := sampleLine s n r.ofs (seed s.params n)
  let oor := decide (0 < r.oor + q.oor)
  { bitstream := writeLineBits f.bitstream n q.bits
    lineOfs := Memory.write f.lineOfs n (sext32 r.ofs)
    lineFlags := Memory.write f.lineFlags n (lineFlagsOf false oor r.pat r.found)
    fails := if r.found then f.fails else f.fails + 1
    anyOor := f.anyOor || oor }

/-- One line of the frame (44_frame.md R86). -/
def frameLine (s : State) (n : Nat) (f : FrameOutputs) : FrameOutputs :=
  if n < s.params.z then zeroLine n f else dataLine s n f

/-- The lines `n, n+1, …`, `m` of them, in increasing order (44_frame.md R86). -/
def frameLines (s : State) : Nat → Nat → FrameOutputs → FrameOutputs
  | 0, _, f => f
  | m + 1, n, f => frameLines s m (n + 1) (frameLine s n f)

/-- DECODE_FRAME's outputs by the rule (44_frame.md R86). -/
def frameOutputs (s : State) : FrameOutputs :=
  frameLines s s.params.l 0
    { bitstream := s.bitstream, lineOfs := s.lineOfs, lineFlags := s.lineFlags, fails := 0, anyOor := false }

/-- DECODE_FRAME's writes when it is not refused (44_frame.md R85, R86). -/
def putFrameOutputs (f : FrameOutputs) (s : State) : State :=
  { s with
    bitstream := f.bitstream
    lineOfs := f.lineOfs
    lineFlags := f.lineFlags
    result := zext32 f.fails
    status := putFrameFlags s.status (decide (0 < f.fails)) f.anyOor }

/-- DECODE_FRAME when the host broke its duties: every location it writes takes any value (70_reset_and_hazards.md R117;
log 5). -/
def putDrawnFrame (s : State) : State :=
  let d := s.draws
  let l := s.params.l
  let f := Config.draw 2 (d + 101 * l + 1)
  { s with
    bitstream := Memory.writeRange s.bitstream 0 (drawnBits d (99 * l))
    lineOfs := Memory.writeRange s.lineOfs 0 ((List.range l).map fun n => Config.draw 32 (d + 99 * l + n))
    lineFlags := Memory.writeRange s.lineFlags 0 ((List.range l).map fun n => Config.draw 4 (d + 100 * l + n))
    result := Config.draw 32 (d + 101 * l)
    status := putFrameFlags s.status (f.getLsbD 0) (f.getLsbD 1)
    draws := d + 101 * l + 2 }

/-- The refusal of DECODE_FRAME (44_frame.md R80, 60_exceptions.md R99): `ERR_MALFORMED`, `RESULT = 0`, no buffer. -/
def refuseFrame (s : State) : State := putResult 0#32 (raise .malformedInput s)

/-- DECODE_FRAME's effect (44_frame.md R86, 70_reset_and_hazards.md R117). -/
def decodeFrame (s : State) : State :=
  if malformed s then refuseFrame s
  else if rasterStable s then putFrameOutputs (frameOutputs s) s
  else putDrawnFrame s

/-- DECODE_FRAME (44_frame.md R86). -/
def execDecodeFrame (s : State) : Host.Outcome State Fault Refusal := .next (complete (decodeFrame s))

end Sys2Proof.Machine
end

