-- ==== Sys2Proof/Machine/Packets.lean ====
section
/-! DEFINITION. The packet splitter and deinterleaver, its packet views, and its command (45_packets.md). -/

namespace Sys2Proof.Machine

/-- `r_p[s]`, the received bits of packet `p`; bit 751 is the pad bit 0 (45_packets.md R88). -/
def packetBit (stream : Memory 1) (p s : Nat) : Bit :=
  if s < Config.pktBits then stream.read (Config.pktBits * p + s) else 0#1

/-- Eight bits as a byte, `f k` at bit `k`. -/
def byteOfBits (f : Nat → Bit) : Byte := f 7 ++ f 6 ++ f 5 ++ f 4 ++ f 3 ++ f 2 ++ f 1 ++ f 0

/-- `B_p[m]`, the MSB-first packing of the received bits before deinterleaving (45_packets.md R89): an intermediate
value that no access can read (10_state.md R33). -/
def packedByte (stream : Memory 1) (p m : Nat) : Byte := byteOfBits fun k => packetBit stream p (8 * m + (7 - k))

/-- The deinterleave transpose: bit `k` of byte `b` is `r_p[b + 94·k]` (45_packets.md R90). -/
def deinterleavedByte (stream : Memory 1) (p b : Nat) : Byte :=
  byteOfBits fun k => packetBit stream p (b + Config.pktBytes * k)

/-- Packet `p`'s 94 bytes, in order. -/
def packetBytes (stream : Memory 1) (p : Nat) : List Byte :=
  (List.range Config.pktBytes).map (deinterleavedByte stream p)

/-- Packets `p, p+1, …`, `m` of them, are written to the packet memory (45_packets.md R95). -/
def splitFrom (stream : Memory 1) : Nat → Nat → Memory 8 → Memory 8
  | 0, _, pkt => pkt
  | m + 1, p, pkt => splitFrom stream m (p + 1) (pkt.writeRange (Config.pktBytes * p) (packetBytes stream p))

/-- SPLIT_PACKETS' effect (45_packets.md R95). -/
def splitPackets (s : State) : State :=
  { s with pkt := splitFrom s.bitstream Config.pktsPerFrame 0 s.pkt, result := zext32 Config.pktsPerFrame }

/-- SPLIT_PACKETS (45_packets.md R95). -/
def execSplitPackets (s : State) : Host.Outcome State Fault Refusal := .next (complete (splitPackets s))

/-! ## Views of the packet memory -/

/-- `PKT[p][b]` (10_state.md R31). -/
def pktByte (s : State) (p b : Nat) : Byte := s.pkt.read (Config.pktBytes * p + b)

/-- `address(p)` (45_packets.md R91). -/
def packetAddress (s : State) (p : Nat) : BitVec 10 := (pktByte s p 1).extractLsb' 0 2 ++ pktByte s p 0

/-- `continuity(p)` (45_packets.md R92). -/
def packetContinuity (s : State) (p : Nat) : BitVec 2 := (pktByte s p 1).extractLsb' 2 2

/-- `payload(p)[d]` (45_packets.md R93). -/
def payloadByte (s : State) (p d : Nat) : Byte := (pktByte s p (2 + d) >>> 7) ||| (pktByte s p (3 + d) <<< 1)

end Sys2Proof.Machine
end

