-- ==== Sys2Proof/Machine/Dispatch.lean ====
section
/-! DEFINITION. One arm per command: the completion step of each (10_state.md R27). -/

namespace Sys2Proof.Machine

/-- The completion step of a command (10_state.md R27). -/
def exec (i : Instr) (s : State) : Host.Outcome State Fault Refusal :=
  match i with
  | .lfsrStep => Sys2Proof.Machine.execLfsrStep s
  | .lfsrSeed n => Sys2Proof.Machine.execLfsrSeed n s
  | .classify v => Sys2Proof.Machine.execClassify v s
  | .findSync n => Sys2Proof.Machine.execFindSync n s
  | .sampleLine n => Sys2Proof.Machine.execSampleLine n s
  | .decodeFrame => Sys2Proof.Machine.execDecodeFrame s
  | .splitPackets => Sys2Proof.Machine.execSplitPackets s

end Sys2Proof.Machine
end

