-- ==== Sys2Proof/Machine/Bus.lean ====
section
/-! DEFINITION. The host port: the address map, word reads and writes, and the host forms of 30_encoding.md R53
(20_memory.md). -/

namespace Sys2Proof.Machine

/-! ## The address map (20_memory.md R36) -/

/-- What stands at an aligned host address. The windows carry the entry number or the byte offset of the word. -/
inductive Location where
  | cmd
  | status
  | lfsr
  | offset
  | result
  | width
  | height
  | config (k : Nat)
  | lineOfsWin (n : Nat)
  | lineFlagsWin (n : Nat)
  | pktHdrWin (p : Nat)
  | pktByteWin (o : Nat)
  | pktPayloadWin (o : Nat)
  | bitstreamWin (o : Nat)
  | reserved
  deriving DecidableEq, Repr

/-- The address map (20_memory.md R36). -/
def locate (addr : HostAddr) : Location :=
  let a := addr.toNat
  if a = 0x00000 then .cmd
  else if a = 0x00004 then .status
  else if a = 0x00008 then .lfsr
  else if a = 0x0000C then .offset
  else if a = 0x00010 then .result
  else if a = 0x00014 then .width
  else if a = 0x00018 then .height
  else if a < 0x0001C then .reserved
  else if a ≤ 0x00028 then .config ((a - 0x0001C) / 4)
  else if a < 0x01000 then .reserved
  else if a < 0x02000 then .lineOfsWin ((a - 0x01000) / 4)
  else if a < 0x03000 then .lineFlagsWin ((a - 0x02000) / 4)
  else if a < 0x04000 then .pktHdrWin ((a - 0x03000) / 4)
  else if a < 0x08000 then .pktByteWin (a - 0x04000)
  else if a < 0x0C000 then .pktPayloadWin (a - 0x08000)
  else if a < 0x10000 then .reserved
  else .bitstreamWin (a - 0x10000)

/-- `A[1:0] = 00` (20_memory.md R35). -/
def aligned (addr : HostAddr) : Bool := addr.extractLsb' 0 2 == 0#2

/-! ## Contents -/

/-- `CONFIG0`..`CONFIG3` (10_state.md R25). -/
def configWord (p : Params) : Nat → Word
  | 0 => BitVec.ofNat 16 p.z ++ BitVec.ofNat 16 p.l
  | 1 => p.seed0.setWidth 32
  | 2 => BitVec.ofNat 16 p.d ++ BitVec.ofNat 16 p.n
  | 3 => BitVec.ofNat 16 p.row0 ++ BitVec.ofNat 16 p.ph
  | _ => 0#32

/-- The word at window offset `o` of a byte window, little-endian byte lanes (20_memory.md R38). -/
def lanes (byteAt : Nat → Byte) (o : Nat) : Word := byteAt (o + 3) ++ byteAt (o + 2) ++ byteAt (o + 1) ++ byteAt o

/-- A word of `LINE_OFS_WIN` (20_memory.md R36). -/
def lineOfsWord (s : State) (n : Nat) : Word := if n < s.params.l then s.lineOfs.read n else 0#32

/-- A word of `LINE_FLAGS_WIN` (20_memory.md R36). -/
def lineFlagsWord (s : State) (n : Nat) : Word := if n < s.params.l then (s.lineFlags.read n).setWidth 32 else 0#32

/-- A word of `PKT_HDR_WIN`: the address in bits 9:0, the continuity in bits 17:16 (20_memory.md R36). -/
def pktHdrWord (s : State) (p : Nat) : Word :=
  if p < Config.pktsPerFrame then (packetContinuity s p ++ 0#6 ++ packetAddress s p).setWidth 32 else 0#32

/-- A byte of `PKT_BYTE_WIN` (20_memory.md R36). -/
def pktWindowByte (s : State) (o : Nat) : Byte :=
  if o / 128 < Config.pktsPerFrame ∧ o % 128 < Config.pktBytes then pktByte s (o / 128) (o % 128) else 0#8

/-- A byte of `PKT_PAYLOAD_WIN` (20_memory.md R36). -/
def payloadWindowByte (s : State) (o : Nat) : Byte :=
  if o / 128 < Config.pktsPerFrame ∧ o % 128 < Config.payloadBytes then payloadByte s (o / 128) (o % 128) else 0#8

/-- A byte of `BITSTREAM_WIN`, MSB-first; bits past the last are 0 (20_memory.md R36, R39). -/
def bitstreamByte (s : State) (i : Nat) : Byte :=
  byteOfBits fun k =>
    if 8 * i + (7 - k) < Config.bitsPerLine * s.params.l then streamRead s (8 * i + (7 - k)) else 0#1

/-- What a location holds (20_memory.md R36, R37). -/
def content (s : State) : Location → Word
  | .cmd => s.cmd
  | .status => s.status
  | .lfsr => s.lfsr.setWidth 32
  | .offset => s.offset
  | .result => s.result
  | .width => s.width.setWidth 32
  | .height => s.height.setWidth 32
  | .config k => configWord s.params k
  | .lineOfsWin n => lineOfsWord s n
  | .lineFlagsWin n => lineFlagsWord s n
  | .pktHdrWin p => pktHdrWord s p
  | .pktByteWin o => lanes (pktWindowByte s) o
  | .pktPayloadWin o => lanes (payloadWindowByte s) o
  | .bitstreamWin o => lanes (bitstreamByte s) o
  | .reserved => 0#32

/-- The locations whose reads may return any value while a command is outstanding: `LFSR`, `OFFSET`, `RESULT` and every
window (20_memory.md R43, 70_reset_and_hazards.md R115). -/
def volatile : Location → Bool
  | .cmd => false
  | .status => false
  | .lfsr => true
  | .offset => true
  | .result => true
  | .width => false
  | .height => false
  | .config _ => false
  | .lineOfsWin _ => true
  | .lineFlagsWin _ => true
  | .pktHdrWin _ => true
  | .pktByteWin _ => true
  | .pktPayloadWin _ => true
  | .bitstreamWin _ => true
  | .reserved => false

/-- The engine is executing a command (10_state.md R26). -/
def isBusy (s : State) : Bool :=
  match s.eng with
  | .idle => false
  | .busy _ => true

/-- A command was accepted and the host has not read BUSY = 0 since (70_reset_and_hazards.md R115; log 12). -/
def outstanding (s : State) : Bool := isBusy s || s.unpolled

/-! ## Accesses -/

/-- The host's record of a read (log 9). -/
def record (v : Word) (s : State) : State := { s with reads := v :: s.reads }

/-- A word read at a location (20_memory.md R41, R43, 70_reset_and_hazards.md R115): any value, freshly drawn, at a
volatile location while a command is outstanding; else the location's content. It changes no state of the block. A
STATUS read that returns BUSY = 0 ends the hazard of R115. -/
def readLocation (l : Location) (s : State) : State :=
  if volatile l && outstanding s then record (Config.draw 32 s.draws) (spendDraws 1 s)
  else
    let t := record (content s l) s
    if l = .status ∧ flag s.status busyBit = false then { t with unpolled := false } else t

/-- A write to one of the read/write registers other than `CMD`: dropped with ERR_BUSY while busy (60_exceptions.md
R98), else it stores the defined bits (20_memory.md R37). -/
def writeRegister (update : State) (s : State) : State := if isBusy s then raise .busyWrite s else update

/-- A word write at a location (20_memory.md R36, R37, 30_encoding.md R50). -/
def writeLocation (l : Location) (v : Word) (s : State) : State :=
  match l with
  | .cmd => writeCmd v s
  | .lfsr => writeRegister { s with lfsr := v.setWidth 15 } s
  | .offset => writeRegister { s with offset := v } s
  | .width => writeRegister { s with width := v.setWidth 16 } s
  | .height => writeRegister { s with height := v.setWidth 16 } s
  | .status => s
  | .result => s
  | .config _ => s
  | .lineOfsWin _ => s
  | .lineFlagsWin _ => s
  | .pktHdrWin _ => s
  | .pktByteWin _ => s
  | .pktPayloadWin _ => s
  | .bitstreamWin _ => s
  | .reserved => s

/-- A host access: refused while reset is asserted (70_reset_and_hazards.md R111), a fault of the host program when
misaligned (20_memory.md R35), else `act` at the address's location. -/
def hostAccess (addr : HostAddr) (act : Location → State → State) (s : State) : Host.Outcome State Fault Refusal :=
  if s.inReset then .refused .accessInReset
  else if aligned addr then .next (act (locate addr) s)
  else .fault .busError

/-- `MemRead(addr, 4)` (20_memory.md R35). -/
def hostRead (addr : HostAddr) (s : State) : Host.Outcome State Fault Refusal := hostAccess addr readLocation s

/-- `MemWrite(addr, 4, v)` (20_memory.md R35). -/
def hostWrite (addr : HostAddr) (v : Word) (s : State) : Host.Outcome State Fault Refusal :=
  hostAccess addr (fun l t => writeLocation l v t) s

/-! ## Host forms (30_encoding.md R53) -/

/-- `WR addr, value`. -/
def hostWr (addr : HostAddr) (v : Word) : List Event := [.hostWrite addr v]

/-- `RD reg <- addr`. -/
def hostRd (addr : HostAddr) : List Event := [.hostRead addr]

/-- `POLL` when the engine completes after `k` reads that still return BUSY = 1: the loop ends with the first read
that returns BUSY = 0. -/
def hostPoll (k : Nat) : List Event :=
  List.replicate k (.hostRead 0x00004#17) ++ [.engineStep, .hostRead 0x00004#17]

/-- `EXEC <command>`: the encoded word to `CMD`, then `POLL`. -/
def hostExec (i : Instr) (k : Nat) : List Event := hostWr 0x00000#17 (encode i) ++ hostPoll k

end Sys2Proof.Machine
end

