-- ==== Sys2Proof/Machine/Turn.lean ====
section
/-! DEFINITION. Which agent moves next and what it does short of running a command (20_memory.md R42); reading the
command in flight (10_state.md R20, R26). -/

namespace Sys2Proof.Machine

/-- What the next step is: a command to run in a state, or an outcome already settled. -/
inductive Turn where
  /-- The engine completes the command `i` in the state `s`. -/
  | command (i : Instr) (s : State)
  /-- Anything else. -/
  | settled (o : Host.Outcome State Fault Refusal)

/-- The engine's turn: it completes the command whose word `ENG` holds (10_state.md R27). Idle, it waits
(70_reset_and_hazards.md R113); in reset it does nothing. A word in flight that is no command cannot arise (log 8). -/
def engineTurn (s : State) : Turn :=
  if s.inReset then .settled (.next s)
  else
    match s.eng with
    | .idle => .settled (.next s)
    | .busy c =>
      match decode c with
      | .ok i => .command i s
      | .error _ => .settled (.next (abandonIllegal s))

/-- An event happens. -/
def eventTurn (e : Event) (s : State) : Turn :=
  match e with
  | .hostRead addr => .settled (hostRead addr s)
  | .hostWrite addr v => .settled (hostWrite addr v s)
  | .engineStep => engineTurn s
  | .assertReset => .settled (.next (assertReset s))
  | .releaseReset => .settled (.next (releaseReset s))
  | .supplyRaster r => .settled (supplyRaster r s)

/-- Who moves next: the first pending event, or the engine when no event is pending, so that every accepted command
completes (10_state.md R27, log 2). -/
def nextTurn (s : State) : Turn :=
  match s.pending with
  | [] => engineTurn s
  | e :: rest => eventTurn e (withPending rest s)

/-- The events with the engine's step first; with none pending the engine moves next as it is. -/
def engineFirst : List Event → List Event
  | [] => []
  | e :: rest => .engineStep :: e :: rest

/-- The word `c` in flight, as its acceptance by an idle engine leaves it (30_encoding.md R50), with the engine next to
move (log 3). -/
def placeInFlight (c : Word) (s : State) : State :=
  { launch c (takeWord c s) with inReset := false, pending := engineFirst s.pending }

end Sys2Proof.Machine
end

