-- ==== Sys2Proof/Machine/Step.lean ====
section
/-! DEFINITION. One step of the machine. -/

namespace Sys2Proof.Machine

/-- One step: the next event of the total order (20_memory.md R42), or the completion of the command in flight
(10_state.md R27). -/
def step (s : State) : Host.Outcome State Fault Refusal :=
  match Sys2Proof.Machine.nextTurn s with
  | .command i t => exec i t
  | .settled o => o

/-- `s` with the word `w` where the engine takes its command: accepted and in flight, the engine next to move (log 3).
The bits of `w` above `nbits` are 0. -/
def State.withFetchWord (s : State) (nbits w : Nat) : State :=
  Sys2Proof.Machine.placeInFlight (BitVec.ofNat 32 (w % 2 ^ nbits)) s

end Sys2Proof.Machine
end

