-- ==== Sys2Proof/Safety.lean ====
section
/-! DEFINITION. What counts as a good state, and the terms the statements use. -/

namespace Sys2Proof.Machine

/-! ## Runs -/

/-- `k` steps, stopping at the first fault or refusal. -/
def runSteps : Nat → State → Host.Outcome State Fault Refusal
  | 0, s => .next s
  | k + 1, s =>
    match step s with
    | .next t => runSteps k t
    | .fault r => .fault r
    | .refused r => .refused r

/-! ## Frames -/

/-- The four buffers are unchanged (10_state.md R28 to R31). -/
def SameBuffers (s t : State) : Prop :=
  t.bitstream = s.bitstream ∧ t.lineOfs = s.lineOfs ∧ t.lineFlags = s.lineFlags ∧ t.pkt = s.pkt

/-- What no command changes: the parameters, `CMD`, `WIDTH`, `HEIGHT`, the raster, the reset input, the events to come
and the host's record. -/
def SameSurroundings (s t : State) : Prop :=
  t.params = s.params ∧ t.cmd = s.cmd ∧ t.width = s.width ∧ t.height = s.height ∧ t.raster = s.raster ∧
    t.inReset = s.inReset ∧ t.pending = s.pending ∧ t.reads = s.reads ∧ t.unpolled = s.unpolled

/-- Every STATUS bit outside `ks` is unchanged. -/
def SameFlagsBut (ks : List Nat) (s t : State) : Prop := ∀ k, k ∉ ks → flag t.status k = flag s.status k

/-- The STATUS bits a command's rule writes at its completion, `BUSY` and `DONE` among them (40_scrambler.md R62, R63,
41_classifier.md R67, 42_synchronizer.md R74, 43_sampler.md R79, 44_frame.md R86, 45_packets.md R95). -/
def commandFlags : Instr → List Nat
  | .lfsrStep => [busyBit, doneBit]
  | .lfsrSeed _ => [busyBit, doneBit]
  | .classify _ => [busyBit, doneBit]
  | .findSync _ => [busyBit, doneBit, syncFoundBit, syncPatBit, oorBit, syncFailBit]
  | .sampleLine _ => [busyBit, doneBit, oorBit]
  | .decodeFrame => [busyBit, doneBit, syncFailBit, oorBit, errMalformedBit]
  | .splitPackets => [busyBit, doneBit]

/-- The block's own registers, engine and buffers are the same (10_state.md R15). -/
def SameBlock (s t : State) : Prop :=
  t.cmd = s.cmd ∧ t.status = s.status ∧ t.lfsr = s.lfsr ∧ t.offset = s.offset ∧ t.result = s.result ∧
    t.width = s.width ∧ t.height = s.height ∧ t.eng = s.eng ∧ SameBuffers s t

/-- A command has completed (10_state.md R27): `BUSY = 0`, `DONE = 1`, `ENG = Idle`. -/
def Completed (t : State) : Prop := t.eng = .idle ∧ flag t.status busyBit = false ∧ flag t.status doneBit = true

/-! ## Counts -/

/-- How many of the columns are outside `WIDTH × HEIGHT` on row `y`. -/
def outOfRangeCount (s : State) (y : Int) (columns : List Int) : Nat := columns.countP fun x => !inRange s x y

/-- The six columns a candidate reads (42_synchronizer.md R71). -/
def syncColumns (s : State) (x : Int) : List Int :=
  (List.range Config.syncBits).map fun k => x + (pos s.params k : Int)

/-- The columns that the candidates `0 .. m − 1` read. -/
def scanColumns (s : State) (m : Nat) : List Int := (List.range m).flatMap fun (x : Nat) => syncColumns s x

/-- The 99 columns of a line's data bits (43_sampler.md R75). -/
def dataColumns (s : State) (ofs : Int) : List Int :=
  (List.range Config.bitsPerLine).map fun j => dataColumn s.params ofs j

/-- The candidate word at column `x` of row `y` is one of the two patterns (42_synchronizer.md R72). -/
def Matches (s : State) (x y : Int) : Prop := (syncWord s x y).1 = Config.syncA ∨ (syncWord s x y).1 = Config.syncB

/-! ## The lane reading of the deinterleaver (45_packets.md R90) -/

/-- Lane `s mod 94` is rotated right by one bit and the received bit `s` injected at its top. -/
def laneStep (r : Nat → Bit) (lanes : List Byte) (s : Nat) : List Byte :=
  lanes.modify (s % Config.pktBytes) fun lane => (lane >>> 1) ||| ((r s).setWidth 8 <<< 7)

/-- The 94 lanes after the first `m` received bits. -/
def lanesAfter (r : Nat → Bit) (m : Nat) : List Byte :=
  (List.range m).foldl (laneStep r) (List.replicate Config.pktBytes 0#8)

/-! ## The invariant -/

/-- Bits 7:6 and 31:11 of STATUS read 0 (10_state.md R17). -/
def StatusReserved (st : Word) : Prop := st &&& 0xFFFFF8C0#32 = 0#32

/-- A buffer is in the canonical form and lists no cell beyond its size. -/
def BufferWf {w : Nat} (m : Memory w) (size : Nat) : Prop := Memory.wf m = true ∧ Memory.below m size = true

/-- A supplier's raster: 16-bit extents, canonical, nothing listed outside the grid (20_memory.md R34, R40). -/
def RasterWf (r : Raster) : Prop :=
  r.width ≤ Config.maxExtent ∧ r.height ≤ Config.maxExtent ∧ Memory.wf (w := 8) r.cells = true ∧
    r.cells.all (fun c => inGrid r c.1) = true

/-- What every run of the machine keeps. -/
structure Inv (s : State) : Prop where
  /-- `STATUS.BUSY = 1` exactly when `ENG = Busy(c)` (10_state.md R26). -/
  busy_iff : flag s.status busyBit = isBusy s
  /-- Only an accepted legal command is in flight, and `CMD` holds its word (10_state.md R16, R26). -/
  in_flight : ∀ c, s.eng = .busy c → s.cmd = c ∧ (legalCommand s.params c).isSome = true
  /-- Reserved bits of STATUS read 0 (10_state.md R17). -/
  reserved : StatusReserved s.status
  /-- `BITSTREAM` has `99·L` bits (10_state.md R28). -/
  bitstream : BufferWf s.bitstream (Config.bitsPerLine * s.params.l)
  /-- `LINE_OFS` has `L` words (10_state.md R29). -/
  lineOfs : BufferWf s.lineOfs s.params.l
  /-- `LINE_FLAGS` has `L` fields (10_state.md R30). -/
  lineFlags : BufferWf s.lineFlags s.params.l
  /-- `PKT` has 82 × 94 bytes (10_state.md R31). -/
  pkt : BufferWf s.pkt (Config.pktsPerFrame * Config.pktBytes)
  /-- The supplier's raster is one. -/
  raster : RasterWf s.raster
  /-- Nothing is in flight while reset is asserted (70_reset_and_hazards.md R111). -/
  reset_idle : s.inReset = true → s.eng = .idle
  /-- While a command is in flight the host has not read BUSY = 0 since its acceptance. -/
  busy_unpolled : isBusy s = true → s.unpolled = true
  /-- Only a command in flight can have its raster disturbed. -/
  idle_undisturbed : s.eng = .idle → s.disturbed = false

end Sys2Proof.Machine
end

