-- ==== Sys2Proof/Certificates/Slice0/Obligations.lean ====
section
/-! DEFINITION. The statements about the D2-MAC packet-decoder CORE, each a Prop, from the numbered rules of spec/. -/

open Sys2Proof Sys2Proof.Machine

/-! ## Encoding and decoding (30_encoding.md) -/

/-- R46, R47: the decoder reads back every command the encoder writes, with every operand at every value. -/
def Obligations.DecodeReadsBackEncode : Prop := ∀ i : Instr, decode (encode i) = .ok i

/-- R54: the worked encodings. -/
def Obligations.WorkedEncodings : Prop :=
  encode .lfsrStep = 0x10000000#32 ∧ encode (.lfsrSeed 5#10) = 0x20000005#32 ∧
  encode (.classify 0xAB#8) = 0x300000AB#32 ∧ encode (.findSync 5#10) = 0x40000005#32 ∧
  encode (.sampleLine 5#10) = 0x50000005#32 ∧ encode .decodeFrame = 0x60000000#32 ∧
  encode .splitPackets = 0x70000000#32 ∧ decode 0x00000000#32 = .error (.reservedOpcode 0#4) ∧
  decode 0x40000400#32 = .ok (.findSync 0#10) ∧ decode 0x9ABCDEF0#32 = .error (.reservedOpcode 9#4)

/-- R47: the seven rows of the opcode map, and words written out from R46 with operands, decode to their commands. -/
def Obligations.SpecWordsDecode : Prop :=
  decodeTableWord 32 0x10000000 = some .lfsrStep ∧ decodeTableWord 32 0x20000000 = some (.lfsrSeed 0#10) ∧
  decodeTableWord 32 0x30000000 = some (.classify 0#8) ∧ decodeTableWord 32 0x40000000 = some (.findSync 0#10) ∧
  decodeTableWord 32 0x50000000 = some (.sampleLine 0#10) ∧ decodeTableWord 32 0x60000000 = some .decodeFrame ∧
  decodeTableWord 32 0x70000000 = some .splitPackets ∧
  decode 0b0010_000000000000000000_1111111111#32 = .ok (.lfsrSeed 1023#10) ∧
  decode 0b0011_000000000000000000_00_01010101#32 = .ok (.classify 0x55#8)

/-- R49 (which words are illegal): a word is no legal command exactly when its opcode is reserved, or it is FIND_SYNC or
SAMPLE_LINE with `n ≥ L`. -/
def Obligations.IllegalWordsAreExactly : Prop :=
  ∀ (p : Params) (c : Word), legalCommand p c = none ↔
    ((opField c).toNat = 0 ∨ 8 ≤ (opField c).toNat ∨
      (((opField c).toNat = 4 ∨ (opField c).toNat = 5) ∧ p.l ≤ (nField c).toNat))

/-- R48: two words with the same opcode and the same operand field of that opcode are the same command: written to
`CMD` and completed, the supplier's geometry being `WIDTH × HEIGHT`, they leave the same state but for `CMD`. -/
def Obligations.IgnoredBitsHaveNoEffect : Prop :=
  ∀ (s t t' : State) (c c' : Word),
    opField c = opField c' →
    ((opField c = 2#4 ∨ opField c = 4#4 ∨ opField c = 5#4) → nField c = nField c') →
    (opField c = 3#4 → vField c = vField c') →
    s.eng = .idle → s.inReset = false → s.width.toNat = s.raster.width → s.height.toNat = s.raster.height →
    s.pending = [.hostWrite 0#17 c, .engineStep] →
    runSteps 2 s = .next t → runSteps 2 { s with pending := [.hostWrite 0#17 c', .engineStep] } = .next t' →
    t' = { t with cmd := c' }

/-- R52: the assembler writes `OP << 28 | operand` for every mnemonic, reads decimal and hexadecimal, and rejects
`n > 1023` and `v > 255`. -/
def Obligations.AssemblerSamples : Prop :=
  assemble "LFSR_STEP" = some 0x10000000#32 ∧ assemble "LFSR_SEED 1023" = some 0x200003FF#32 ∧
  assemble "CLASSIFY 0xAB" = some 0x300000AB#32 ∧ assemble "FIND_SYNC 5" = some 0x40000005#32 ∧
  assemble "SAMPLE_LINE 0x5" = some 0x50000005#32 ∧ assemble "DECODE_FRAME" = some 0x60000000#32 ∧
  assemble "SPLIT_PACKETS" = some 0x70000000#32 ∧ assemble "LFSR_SEED 1024" = none ∧
  assemble "CLASSIFY 256" = none

/-! ## The step, acceptance and conditions -/

/-- R27 (which command runs): when the engine's own event is next and the word in flight decodes to `i`, the step is the
completion of `i` on the state less that event. That the engine moves when no event is pending, the first clause, is the
model's own choice (log 2, DESIGN CHOICE): R27 and R42 leave the time of the step open. -/
def Obligations.StepRunsTheCommandInFlight : Prop :=
  ∀ (s : State) (c : Word) (i : Instr), s.inReset = false → s.eng = .busy c → decode c = .ok i →
    (s.pending = [] → step s = exec i s) ∧
    (∀ rest, s.pending = .engineStep :: rest → step s = exec i (withPending rest s))

/-- R50, second half: an idle engine that is written a legal word stores it, clears `STATUS[10:1]`, sets `BUSY` and has
the word in flight; no other register and no buffer changes. The hazard of R115 starts, and no change of the raster has
yet been made in flight (logs 12 and 5, DEDUCED). -/
def Obligations.LegalWordIsAccepted : Prop :=
  ∀ (s : State) (c : Word), s.eng = .idle → s.inReset = false → legalCommand s.params c ≠ none →
    ∃ t, hostWrite 0x00000#17 c s = .next t ∧ t.cmd = c ∧ t.eng = .busy c ∧
      flag t.status busyBit = true ∧ (∀ k, 1 ≤ k → k ≤ 10 → flag t.status k = false) ∧
      (∀ k, 11 ≤ k → flag t.status k = flag s.status k) ∧
      t.lfsr = s.lfsr ∧ t.offset = s.offset ∧ t.result = s.result ∧ t.width = s.width ∧ t.height = s.height ∧
      t.params = s.params ∧ t.raster = s.raster ∧ t.pending = s.pending ∧ t.reads = s.reads ∧ SameBuffers s t ∧
      t.inReset = false ∧ t.draws = s.draws ∧ t.unpolled = true ∧ t.disturbed = false

/-- R97: an illegal word written to an idle engine is stored in `CMD`, clears `STATUS[10:1]`, then sets `ERR_ILLEGAL`
and `DONE`; `ENG` stays `Idle`, `BUSY` keeps its value (0), no other register or buffer changes, and the next command
can be issued at once. -/
def Obligations.IllegalWordIsFlagged : Prop :=
  ∀ (s : State) (c : Word), s.eng = .idle → flag s.status busyBit = false → s.inReset = false →
    legalCommand s.params c = none →
    ∃ t, hostWrite 0x00000#17 c s = .next t ∧ t.cmd = c ∧ t.eng = .idle ∧ flag t.status busyBit = false ∧
      flag t.status errIllegalBit = true ∧ flag t.status doneBit = true ∧
      (∀ k, 1 ≤ k → k ≤ 10 → k ≠ doneBit → k ≠ errIllegalBit → flag t.status k = false) ∧
      (∀ k, 11 ≤ k → flag t.status k = flag s.status k) ∧
      t.lfsr = s.lfsr ∧ t.offset = s.offset ∧ t.result = s.result ∧ t.width = s.width ∧ t.height = s.height ∧
      t.params = s.params ∧ t.raster = s.raster ∧ t.pending = s.pending ∧ t.reads = s.reads ∧ SameBuffers s t ∧
      (∀ c', legalCommand t.params c' ≠ none → ∃ u, hostWrite 0x00000#17 c' t = .next u ∧ u.eng = .busy c')

/-- R98: while a command is in flight, a write to `CMD`, `LFSR`, `OFFSET`, `WIDTH` or `HEIGHT` changes nothing but
`ERR_BUSY`, which becomes 1; a write to any other location changes nothing; the flag stays through the completion of
every command, which changes only `BUSY`, `DONE` and the command's own flags, and is cleared by the next acceptance. -/
def Obligations.BusyWriteIsDropped : Prop :=
  (∀ (s : State) (c v : Word) (a : HostAddr), s.eng = .busy c → s.inReset = false →
    (a.toNat = 0x00000 ∨ a.toNat = 0x00008 ∨ a.toNat = 0x0000C ∨ a.toNat = 0x00014 ∨ a.toNat = 0x00018 →
      ∃ t, hostWrite a v s = .next t ∧ flag t.status errBusyBit = true ∧ SameFlagsBut [errBusyBit] s t ∧
        t = { s with status := t.status }) ∧
    (a.toNat % 4 = 0 → a.toNat ≠ 0x00000 → a.toNat ≠ 0x00008 → a.toNat ≠ 0x0000C → a.toNat ≠ 0x00014 →
      a.toNat ≠ 0x00018 → hostWrite a v s = .next s)) ∧
  (∀ (s t : State) (i : Instr), flag s.status errBusyBit = true → exec i s = .next t →
    flag t.status errBusyBit = true) ∧
  (∀ (s t : State) (i : Instr), WellFormed s.params i = true → exec i s = .next t →
    SameFlagsBut (commandFlags i) s t) ∧
  (∀ (s t : State) (c : Word), s.eng = .idle → hostWrite 0x00000#17 c s = .next t →
    flag t.status errBusyBit = false)

/-- R27 (what cannot change before the completion): a step that leaves the same command in flight changes no register
the command reads, no buffer, not `CMD` and not `RESULT`. The raster may change (R117), and `ERR_BUSY` be set (R98). -/
def Obligations.CommandInFlightIsProtected : Prop :=
  ∀ (s t : State) (c c' : Word), s.eng = .busy c → step s = .next t → t.eng = .busy c' →
    c' = c ∧ t.cmd = s.cmd ∧ t.lfsr = s.lfsr ∧ t.offset = s.offset ∧ t.result = s.result ∧ t.width = s.width ∧
      t.height = s.height ∧ SameBuffers s t

/-- R26: only the acceptance of a legal word, a host write to `CMD` while idle, makes the engine busy. -/
def Obligations.OnlyAcceptanceLaunches : Prop :=
  ∀ (s t : State) (c : Word), s.eng = .idle → step s = .next t → t.eng = .busy c →
    (∃ rest, s.pending = .hostWrite 0x00000#17 c :: rest) ∧ s.inReset = false ∧ legalCommand s.params c ≠ none

/-- R27 with R53: from every state with a command in flight, a `POLL` whose engine step comes after `k` reads ends with
the engine idle and the last STATUS read returning BUSY = 0; where the invariant holds the `k` reads before it returned
BUSY = 1, so that the host did loop. -/
def Obligations.PollingEndsTheCommand : Prop :=
  ∀ (s : State) (c : Word) (k : Nat), s.eng = .busy c → s.inReset = false → s.pending = hostPoll k →
    ∃ t v looped, runSteps (k + 2) s = .next t ∧ t.eng = .idle ∧ t.unpolled = false ∧ t.pending = [] ∧
      t.reads = v :: (looped ++ s.reads) ∧ flag v busyBit = false ∧ flag v doneBit = true ∧
      looped.length = k ∧ (Inv s → ∀ w ∈ looped, flag w busyBit = true)

/-- R53 (`EXEC`) with R50 and R27: from an idle block, `EXEC` of a well-formed command whose engine step comes after `k`
polls is accepted, runs the command on the accepted state, and ends with the block as the command leaves it, the `k`
polls having returned BUSY = 1 and the last one the `STATUS` the command leaves. -/
def Obligations.ExecFormRunsTheCommand : Prop :=
  ∀ (s : State) (i : Instr) (k : Nat), s.eng = .idle → s.inReset = false → WellFormed s.params i = true →
    s.pending = hostExec i k →
    ∃ a u t looped, hostWrite 0x00000#17 (encode i) s = .next a ∧ exec i a = .next u ∧ runSteps (k + 3) s = .next t ∧
      SameBlock u t ∧ t.cmd = encode i ∧ t.unpolled = false ∧ t.pending = [] ∧
      t.reads = u.status :: (looped ++ s.reads) ∧ looped.length = k ∧ ∀ w ∈ looped, flag w busyBit = true

/-- R106: while no command is in flight, a condition flag (`STATUS[10:2]`) or `DONE` that is set stays set through every
step but a host write to `CMD` and the two edges of reset. -/
def Obligations.FlagsPersistUntilAcceptance : Prop :=
  ∀ (s t : State) (k : Nat), s.eng = .idle → step s = .next t → flag s.status k = true →
    (∀ c rest, s.pending ≠ .hostWrite 0x00000#17 c :: rest) → (∀ rest, s.pending ≠ .assertReset :: rest) →
    (∀ rest, s.pending ≠ .releaseReset :: rest) → flag t.status k = true

/-! ## Scrambler (40_scrambler.md) -/

/-- R62 with R55: LFSR_STEP completes from every state: the state shifts right, the feedback of bits 0 and 14 enters at
bit 14, `RESULT` is the bit shifted out; nothing else changes. -/
def Obligations.LfsrStepResult : Prop :=
  ∀ s : State, ∃ t, exec .lfsrStep s = .next t ∧
    (∀ i, i < 14 → t.lfsr.getLsbD i = s.lfsr.getLsbD (i + 1)) ∧
    t.lfsr.getLsbD 14 = (s.lfsr.getLsbD 0 ^^ s.lfsr.getLsbD 14) ∧
    t.result = (if s.lfsr.getLsbD 0 then 1#32 else 0#32) ∧
    Completed t ∧ SameFlagsBut [busyBit, doneBit] s t ∧ t.offset = s.offset ∧ SameBuffers s t ∧
    SameSurroundings s t ∧ t.draws = s.draws

/-- R63 with R56: LFSR_SEED completes from every state and for every operand: `LFSR` and `RESULT` are `SEED0` advanced
`648·n` times; nothing else changes. -/
def Obligations.LfsrSeedResult : Prop :=
  ∀ (s : State) (n : LineField), ∃ t, exec (.lfsrSeed n) s = .next t ∧
    t.lfsr = (fun S => (advance S).1)^[648 * n.toNat] s.params.seed0 ∧ t.result = t.lfsr.setWidth 32 ∧
    Completed t ∧ SameFlagsBut [busyBit, doneBit] s t ∧ t.offset = s.offset ∧ SameBuffers s t ∧
    SameSurroundings s t ∧ t.draws = s.draws

/-- R57: the all-zero state is a fixed point with output 0; a zero `SEED0` makes every seed and every scrambler bit 0, so
that a line's bits are its classified samples; a nonzero state never advances to 0; 0 is legal in `LFSR` and as `SEED0`. -/
def Obligations.ZeroScramblerState : Prop :=
  advance 0#15 = (0#15, 0#1) ∧
  (∀ p : Params, p.seed0 = 0#15 → ∀ n t, seed p n = 0#15 ∧ scramblerBit (seed p n) t = 0#1) ∧
  (∀ (s : State) (n j : Nat) (ofs : Int), s.params.seed0 = 0#15 → j < 99 →
    (sampleLine s n ofs (seed s.params n)).bits[j]? =
      some (classify (sample s (dataColumn s.params ofs j) (rowOf s.params n)).1)) ∧
  (∀ S : Scrambler, S ≠ 0#15 → (advance S).1 ≠ 0#15) ∧
  (∀ s : State, s.inReset = false → s.eng = .idle →
    hostWrite 0x00008#17 0#32 s = .next { s with lfsr := 0#15 }) ∧
  ∃ p : Params, p.seed0 = 0#15

/-- R58: bit `i` of the state before advance `t` is `o_{t+i}`, and the outputs obey `o_{t+15} = o_t XOR o_{t+14}`. -/
def Obligations.ScramblerRecurrence : Prop :=
  ∀ (S : Scrambler) (t : Nat),
    (∀ i, i ≤ 14 → scramblerBit S (t + i) = BitVec.ofBool ((advanceN t S).getLsbD i)) ∧
    scramblerBit S (t + 15) = scramblerBit S t ^^^ scramblerBit S (t + 14)

/-- R59: from a nonzero state the sequence returns to its start after exactly 32767 advances and visits every nonzero
state; seeds are equal exactly when their lines agree modulo 32767. -/
def Obligations.ScramblerPeriod : Prop :=
  (∀ S : Scrambler, S ≠ 0#15 → advanceN 32767 S = S ∧ (∀ k, 0 < k → k < 32767 → advanceN k S ≠ S) ∧
    (∀ T : Scrambler, T ≠ 0#15 → ∃ k, k < 32767 ∧ advanceN k S = T)) ∧
  (∀ (p : Params) (n m : Nat), p.seed0 ≠ 0#15 → (seed p n = seed p m ↔ n % 32767 = m % 32767))

/-! ## Classifier (41_classifier.md) -/

/-- R67 with R64, R65 (log 13 for the place of the bit, which R67 states in two ways): CLASSIFY completes from every state
and for every intensity: 0x3 at or below 0x55, 0x0 up to 0xAA, 0x101 above; nothing else changes. -/
def Obligations.ClassifyResult : Prop :=
  ∀ (s : State) (v : Byte), ∃ t, exec (.classify v) s = .next t ∧
    t.result = (if v.toNat ≤ 0x55 then 0x00000003#32 else if v.toNat ≤ 0xAA then 0x00000000#32 else 0x00000101#32) ∧
    Completed t ∧ SameFlagsBut [busyBit, doneBit] s t ∧ t.lfsr = s.lfsr ∧ t.offset = s.offset ∧ SameBuffers s t ∧
    SameSurroundings s t ∧ t.draws = s.draws

/-- R66: `classify(v) = bit_value(polarity(v))`, which is 1 exactly when `v ≥ 0xAB`. -/
def Obligations.ClassifyThreshold : Prop :=
  ∀ v : Byte, classify v = bitValue (polarity v) ∧ (classify v = 1#1 ↔ 0xAB ≤ v.toNat)

/-! ## Synchronizer (42_synchronizer.md) -/

/-- R69: the bit grid starts at 0, is non-decreasing, and each step is `floor(N/D)` or one more; `pos(k)` is the exact
floor of `(k·N + PH)/D`. -/
def Obligations.BitGrid : Prop :=
  ∀ (p : Params) (k : Nat), pos p 0 = 0 ∧
    (p.d * pos p k ≤ k * p.n + p.ph ∧ k * p.n + p.ph < p.d * (pos p k + 1)) ∧ pos p k ≤ pos p (k + 1) ∧
    (pos p (k + 1) - pos p k = p.n / p.d ∨ pos p (k + 1) - pos p k = p.n / p.d + 1)

/-- R70 with R40: a position inside `WIDTH × HEIGHT` reads the raster's sample and counts nothing, when the supplier's
geometry is `WIDTH × HEIGHT`; every other position, a negative one too, reads 0x00 and counts one. -/
def Obligations.GuardedSample : Prop :=
  ∀ (s : State) (x y : Int),
    ((0 ≤ x ∧ x < s.width.toNat ∧ 0 ≤ y ∧ y < s.height.toNat) →
      s.raster.width = s.width.toNat → s.raster.height = s.height.toNat →
      sample s x y = (Memory.read (w := 8) s.raster.cells (65536 * y.toNat + x.toNat), 0)) ∧
    (¬ (0 ≤ x ∧ x < s.width.toNat ∧ 0 ≤ y ∧ y < s.height.toNat) → sample s x y = (0x00#8, 1))

/-- R71: the first-sampled bit of a candidate's word is bit 5 and the last bit 0, each the classified sample on the
grid, and the count is that of the columns out of range. -/
def Obligations.SyncWordBits : Prop :=
  ∀ (s : State) (x y : Int),
    (∀ k, k < 6 → BitVec.ofBool ((syncWord s x y).1.getLsbD (5 - k)) =
      classify (sample s (x + (pos s.params k : Int)) y).1) ∧
    (syncWord s x y).2 = outOfRangeCount s y (syncColumns s x)

/-- R74 with R72: FIND_SYNC on a line of the frame, the host's duties kept, completes. `OFFSET` is one less than the
first matching candidate, or `WIDTH − 13` when none of the candidates `0 .. WIDTH − 13` matches; the flags and `RESULT`
say which, and count the out-of-range positions of the candidates visited; nothing else changes. -/
def Obligations.FindSyncResult : Prop :=
  ∀ (s : State) (n : LineField), n.toNat < s.params.l → rasterStable s = true →
    ∃ (t : State) (m : Nat), exec (.findSync n) s = .next t ∧
      (∀ x : Nat, x + 1 < m → ¬ Matches s x (s.params.row0 + n.toNat : Nat)) ∧
      ((∃ x : Nat, m = x + 1 ∧ x + 12 < s.width.toNat ∧ Matches s x (s.params.row0 + n.toNat : Nat) ∧
          t.offset = BitVec.ofInt 32 ((x : Int) - 1) ∧ flag t.status syncFoundBit = true ∧
          flag t.status syncFailBit = false ∧
          flag t.status syncPatBit = decide ((syncWord s x (s.params.row0 + n.toNat : Nat)).1 = 0x0B#6)) ∨
        (m = s.width.toNat - 12 ∧ (∀ x : Nat, x < m → ¬ Matches s x (s.params.row0 + n.toNat : Nat)) ∧
          t.offset = BitVec.ofInt 32 ((s.width.toNat : Int) - 13) ∧ flag t.status syncFoundBit = false ∧
          flag t.status syncFailBit = true ∧ flag t.status syncPatBit = false)) ∧
      t.result = BitVec.ofNat 32 (outOfRangeCount s (s.params.row0 + n.toNat : Nat) (scanColumns s m)) ∧
      flag t.status oorBit =
        decide (0 < outOfRangeCount s (s.params.row0 + n.toNat : Nat) (scanColumns s m)) ∧
      Completed t ∧ SameFlagsBut [busyBit, doneBit, syncFoundBit, syncPatBit, oorBit, syncFailBit] s t ∧
      t.lfsr = s.lfsr ∧ SameBuffers s t ∧ SameSurroundings s t ∧ t.draws = s.draws

/-- R73 (b) with R120: a match's offset lies in `−1 .. WIDTH − 14`, the failure value is `WIDTH − 13`, and no width up
to 12 has a match, so only `found` tells the two apart. -/
def Obligations.OffsetRange : Prop :=
  ∀ (s : State) (n : Nat),
    ((findSync s n).found = true → -1 ≤ (findSync s n).ofs ∧ (findSync s n).ofs ≤ (s.width.toNat : Int) - 14) ∧
    ((findSync s n).found = false →
      (findSync s n).ofs = (s.width.toNat : Int) - 13 ∧ (findSync s n).pat = false) ∧
    (s.width.toNat ≤ 12 → (findSync s n).found = false)

/-- R73 (c): with `pos(5) ≤ 12` and the row inside the raster, no scan read is out of range. -/
def Obligations.ScanStaysInRange : Prop :=
  ∀ (s : State) (n : Nat), pos s.params 5 ≤ 12 → s.params.row0 + n < s.height.toNat → (findSync s n).oor = 0

/-- R74's corner case with R104 (c): on a row below `HEIGHT` every read is out of range; FIND_SYNC finds nothing,
`RESULT = 6·max(0, WIDTH − 12)`, and `SYNC_FAIL` and `OOR` are recorded independently. -/
def Obligations.FindSyncBelowTheRaster : Prop :=
  ∀ (s : State) (n : LineField), n.toNat < s.params.l → rasterStable s = true →
    s.height.toNat ≤ s.params.row0 + n.toNat →
    ∃ t, exec (.findSync n) s = .next t ∧ t.result = BitVec.ofNat 32 (6 * (s.width.toNat - 12)) ∧
      flag t.status syncFailBit = true ∧ flag t.status syncFoundBit = false ∧
      flag t.status oorBit = decide (12 < s.width.toNat) ∧
      t.offset = BitVec.ofInt 32 ((s.width.toNat : Int) - 13)

/-! ## Sampler (43_sampler.md) -/

/-- R79 with R75, R76, R77: SAMPLE_LINE on a line of the frame, the host's duties kept, completes. Bit `j` of the line
is the classified sample at `sval(OFFSET) + 1 + pos(6 + j)` XORed with the `j`-th scrambler output from `LFSR`, stored
at bitstream bit `99·n + j`; `LFSR` is advanced 99 times; `RESULT` counts the out-of-range positions; every other bit
of the bitstream and everything else is unchanged. -/
def Obligations.SampleLineResult : Prop :=
  ∀ (s : State) (n : LineField), n.toNat < s.params.l → rasterStable s = true → Memory.wf s.bitstream = true →
    ∃ t, exec (.sampleLine n) s = .next t ∧
      (∀ j, j < 99 → streamRead t (99 * n.toNat + j) =
        classify (sample s (s.offset.toInt + 1 + (pos s.params (6 + j) : Int))
          (s.params.row0 + n.toNat : Nat)).1 ^^^ scramblerBit s.lfsr j) ∧
      (∀ a, a < 99 * n.toNat ∨ 99 * n.toNat + 99 ≤ a → streamRead t a = streamRead s a) ∧
      t.lfsr = advanceN 99 s.lfsr ∧
      t.result = BitVec.ofNat 32
        (outOfRangeCount s (s.params.row0 + n.toNat : Nat) (dataColumns s s.offset.toInt)) ∧
      flag t.status oorBit =
        decide (0 < outOfRangeCount s (s.params.row0 + n.toNat : Nat) (dataColumns s s.offset.toInt)) ∧
      Completed t ∧ SameFlagsBut [busyBit, doneBit, oorBit] s t ∧ t.offset = s.offset ∧
      t.lineOfs = s.lineOfs ∧ t.lineFlags = s.lineFlags ∧ t.pkt = s.pkt ∧ SameSurroundings s t ∧ t.draws = s.draws

/-- R78 (a): a line whose samples classify to data bits XORed with the generator from `S` is sampled from `S` to the
data bits themselves. -/
def Obligations.DescramblingIsAnInvolution : Prop :=
  ∀ (s : State) (n : Nat) (ofs : Int) (S : Scrambler) (d : Nat → Bit),
    (∀ j, j < 99 → classify (sample s (dataColumn s.params ofs j) (rowOf s.params n)).1 = d j ^^^ scramblerBit S j) →
    (sampleLine s n ofs S).bits = (List.range 99).map d

/-! ## Frame decoder (44_frame.md) -/

/-- R80 with R99: DECODE_FRAME is refused exactly when `WIDTH < 13` or `HEIGHT < ROW0 + L`: then it completes with
`ERR_MALFORMED` set and `RESULT` 0, and no buffer and no other register changes; else it does not raise the flag. That
all of this stays definite when the host has broken a duty of R117 is the reading of log 5 (DEDUCED). -/
def Obligations.MalformedFrameIsRefused : Prop :=
  (∀ s t : State, 13 ≤ s.width.toNat → s.params.row0 + s.params.l ≤ s.height.toNat → exec .decodeFrame s = .next t →
    flag t.status errMalformedBit = flag s.status errMalformedBit) ∧
  ∀ s : State, (s.width.toNat < 13 ∨ s.height.toNat < s.params.row0 + s.params.l) →
    ∃ t, exec .decodeFrame s = .next t ∧ flag t.status errMalformedBit = true ∧ t.result = 0#32 ∧ Completed t ∧
      SameFlagsBut [busyBit, doneBit, errMalformedBit] s t ∧ t.lfsr = s.lfsr ∧ t.offset = s.offset ∧
      SameBuffers s t ∧ SameSurroundings s t ∧ t.draws = s.draws

/-- R86 with R81 to R85: DECODE_FRAME on a raster that is not malformed, the host's duties kept, completes. Zero lines
have 99 zero bits, offset 0 and `ZERO` alone; each data line has the bits sampled at its search's offset from `seed(n)`,
its offset, and its flags; `RESULT` counts the data lines without a match; `SYNC_FAIL` and `OOR` summarise the lines; the
packet memory and everything else is unchanged. -/
def Obligations.DecodeFrameResult : Prop :=
  ∀ s : State, 13 ≤ s.width.toNat → s.params.row0 + s.params.l ≤ s.height.toNat → rasterStable s = true →
    Memory.wf s.bitstream = true → Memory.wf s.lineOfs = true → Memory.wf s.lineFlags = true →
    ∃ t, exec .decodeFrame s = .next t ∧
      (∀ n, n < s.params.z → (∀ j, j < 99 → streamRead t (99 * n + j) = 0#1) ∧ t.lineOfs.read n = 0#32 ∧
        t.lineFlags.read n = 0b1000#4) ∧
      (∀ n, s.params.z ≤ n → n < s.params.l →
        (∀ j, j < 99 → streamRead t (99 * n + j) =
          classify (sample s ((findSync s n).ofs + 1 + (pos s.params (6 + j) : Int)) (s.params.row0 + n : Nat)).1
            ^^^ scramblerBit (seed s.params n) j) ∧
        t.lineOfs.read n = BitVec.ofInt 32 (findSync s n).ofs ∧
        (t.lineFlags.read n).getLsbD 0 = (findSync s n).found ∧
        (t.lineFlags.read n).getLsbD 1 = (findSync s n).pat ∧
        (t.lineFlags.read n).getLsbD 2 = decide (0 < (findSync s n).oor +
          outOfRangeCount s (s.params.row0 + n : Nat) (dataColumns s (findSync s n).ofs)) ∧
        (t.lineFlags.read n).getLsbD 3 = false) ∧
      (∀ a, 99 * s.params.l ≤ a → streamRead t a = streamRead s a) ∧
      (∀ a, s.params.l ≤ a → t.lineOfs.read a = s.lineOfs.read a ∧ t.lineFlags.read a = s.lineFlags.read a) ∧
      t.result = BitVec.ofNat 32 ((List.range s.params.l).countP fun n =>
        decide (s.params.z ≤ n) && !(findSync s n).found) ∧
      (flag t.status syncFailBit = true ↔ ∃ n, s.params.z ≤ n ∧ n < s.params.l ∧ (findSync s n).found = false) ∧
      (flag t.status oorBit = true ↔ ∃ n, s.params.z ≤ n ∧ n < s.params.l ∧
        (t.lineFlags.read n).getLsbD 2 = true) ∧
      Completed t ∧ SameFlagsBut [busyBit, doneBit, syncFailBit, oorBit] s t ∧ t.lfsr = s.lfsr ∧
      t.offset = s.offset ∧ t.pkt = s.pkt ∧ SameSurroundings s t ∧ t.draws = s.draws

/-- R87 (a): for each data line the bits DECODE_FRAME stores equal those stored by the host sequence
`LFSR_SEED n; FIND_SYNC n; SAMPLE_LINE n` from the same state. -/
def Obligations.FrameLineEqualsHostSequence : Prop :=
  ∀ (s s1 s2 s3 t : State) (n : LineField), malformed s = false → rasterStable s = true →
    Memory.wf s.bitstream = true → s.params.z ≤ n.toNat → n.toNat < s.params.l →
    exec (.lfsrSeed n) s = .next s1 → exec (.findSync n) s1 = .next s2 → exec (.sampleLine n) s2 = .next s3 →
    exec .decodeFrame s = .next t →
    ∀ j, j < 99 → streamRead t (99 * n.toNat + j) = streamRead s3 (99 * n.toNat + j)

/-- R87 (b): two rasters that agree on the row of line `n` give the same bits, offset and flags for line `n`. -/
def Obligations.LinesAreIndependent : Prop :=
  ∀ (s s' t t' : State) (n : Nat), s'.params = s.params → s'.width = s.width → s'.height = s.height →
    malformed s = false → rasterStable s = true → rasterStable s' = true →
    Memory.wf s.bitstream = true → Memory.wf s.lineOfs = true → Memory.wf s.lineFlags = true →
    Memory.wf s'.bitstream = true → Memory.wf s'.lineOfs = true → Memory.wf s'.lineFlags = true →
    n < s.params.l →
    (∀ x, x < s.width.toNat → rasterRead s' x (s.params.row0 + n) = rasterRead s x (s.params.row0 + n)) →
    exec .decodeFrame s = .next t → exec .decodeFrame s' = .next t' →
    (∀ j, j < 99 → streamRead t' (99 * n + j) = streamRead t (99 * n + j)) ∧
      t'.lineOfs.read n = t.lineOfs.read n ∧ t'.lineFlags.read n = t.lineFlags.read n

/-- R82: DECODE_FRAME neither reads nor writes `LFSR` and `OFFSET`: refused, or with the host's duties kept, from two
states that differ only there it leaves two states that differ only there. That a refusal stays definite when the host
has broken a duty of R117, which the first premise admits, is the reading of log 5 (DEDUCED). -/
def Obligations.FrameIgnoresLineRegisters : Prop :=
  ∀ (s t : State) (l : Scrambler) (o : Word), (malformed s = true ∨ rasterStable s = true) →
    exec .decodeFrame s = .next t →
    t.lfsr = s.lfsr ∧ t.offset = s.offset ∧
      exec .decodeFrame { s with lfsr := l, offset := o } = .next { t with lfsr := l, offset := o }

/-- R117: when the host breaks its duties, a command that reads the raster still completes and changes only the
registers and buffer locations it writes; what those then hold is a free value (log 5), and nothing else is affected. -/
def Obligations.BrokenDutiesAffectOnlyTheOutputs : Prop :=
  ∀ s : State, rasterStable s = false →
    (∀ n : LineField, n.toNat < s.params.l → ∃ t, exec (.findSync n) s = .next t ∧ Completed t ∧
      SameFlagsBut [busyBit, doneBit, syncFoundBit, syncPatBit, oorBit, syncFailBit] s t ∧ t.lfsr = s.lfsr ∧
      SameBuffers s t ∧ SameSurroundings s t) ∧
    (∀ n : LineField, n.toNat < s.params.l → ∃ t, exec (.sampleLine n) s = .next t ∧ Completed t ∧
      SameFlagsBut [busyBit, doneBit, oorBit] s t ∧ t.offset = s.offset ∧
      (∀ a, a < 99 * n.toNat ∨ 99 * n.toNat + 99 ≤ a → streamRead t a = streamRead s a) ∧
      t.lineOfs = s.lineOfs ∧ t.lineFlags = s.lineFlags ∧ t.pkt = s.pkt ∧ SameSurroundings s t) ∧
    (malformed s = false → ∃ t, exec .decodeFrame s = .next t ∧ Completed t ∧
      SameFlagsBut [busyBit, doneBit, syncFailBit, oorBit] s t ∧ t.lfsr = s.lfsr ∧ t.offset = s.offset ∧
      (∀ a, 99 * s.params.l ≤ a → streamRead t a = streamRead s a) ∧
      (∀ a, s.params.l ≤ a → t.lineOfs.read a = s.lineOfs.read a ∧ t.lineFlags.read a = s.lineFlags.read a) ∧
      t.pkt = s.pkt ∧ SameSurroundings s t)

/-- Log 8 (the model's own choice, DESIGN CHOICE): FIND_SYNC or SAMPLE_LINE with `n ≥ L`, which no run has in flight
(30_encoding.md R49 (b)), is not executed: it ends with `ERR_ILLEGAL` and `DONE` and changes nothing else. -/
def Obligations.LineOutsideTheFrameIsNotExecuted : Prop :=
  ∀ (s : State) (n : LineField) (i : Instr), s.params.l ≤ n.toNat → (i = .findSync n ∨ i = .sampleLine n) →
    ∃ t, exec i s = .next t ∧ Completed t ∧ flag t.status errIllegalBit = true ∧
      SameFlagsBut [busyBit, doneBit, errIllegalBit] s t ∧ t.lfsr = s.lfsr ∧ t.offset = s.offset ∧
      t.result = s.result ∧ SameBuffers s t ∧ SameSurroundings s t ∧ t.draws = s.draws

/-! ## Packets (45_packets.md) -/

/-- R95 with R88, R90: SPLIT_PACKETS completes from every state: bit `k` of byte `b` of packet `p` is bitstream bit
`751·p + b + 94·k`, the pad bit 0; `RESULT` is 82; nothing else changes. -/
def Obligations.SplitPacketsResult : Prop :=
  ∀ s : State, Memory.wf s.pkt = true → ∃ t, exec .splitPackets s = .next t ∧
    (∀ p b k, p < 82 → b < 94 → k < 8 → BitVec.ofBool ((t.pkt.read (94 * p + b)).getLsbD k) =
      if b + 94 * k < 751 then streamRead s (751 * p + (b + 94 * k)) else 0#1) ∧
    (∀ a, 82 * 94 ≤ a → t.pkt.read a = s.pkt.read a) ∧
    t.result = 82#32 ∧ Completed t ∧ SameFlagsBut [busyBit, doneBit] s t ∧ t.lfsr = s.lfsr ∧
    t.offset = s.offset ∧ t.bitstream = s.bitstream ∧ t.lineOfs = s.lineOfs ∧ t.lineFlags = s.lineFlags ∧
    SameSurroundings s t ∧ t.draws = s.draws

/-- R94 (a): the transmitter's interleave undoes the transpose: after SPLIT_PACKETS, received bit `s` of packet `p` is
bit `floor(s/94)` of byte `s mod 94`, and the pad bit is bit 7 of byte 93. -/
def Obligations.InterleaveUndoesTheTranspose : Prop :=
  ∀ s t : State, Memory.wf s.pkt = true → exec .splitPackets s = .next t → ∀ p, p < 82 →
    (∀ r, r < 751 →
      streamRead s (751 * p + r) = BitVec.ofBool ((pktByte t p (r % 94)).getLsbD (r / 94))) ∧
    (pktByte t p 93).getLsbD 7 = false

/-- R90, second half: rotating lane `s mod 94` right and injecting bit `s` at its top, for `s = 0 .. 751`, leaves the
transposed bytes. -/
def Obligations.LaneRotationIsTheTranspose : Prop :=
  ∀ (stream : Memory 1) (p : Nat), lanesAfter (packetBit stream p) 752 = packetBytes stream p

/-- R91, R92, R93: the packet fields of any packet memory. Address is byte 0 plus 256 times bits 1:0 of byte 1;
continuity is bits 3:2 of byte 1; they are deinterleaved bits 0 to 9, and 10 and 11; payload byte `d` joins bit 7 of byte
`2 + d` and bits 6:0 of byte `3 + d`, so its bit `t` is deinterleaved bit `23 + 8·d + t`. -/
def Obligations.PacketFields : Prop :=
  ∀ (s : State) (p : Nat),
    (packetAddress s p).toNat = (pktByte s p 0).toNat + 256 * ((pktByte s p 1).toNat % 4) ∧
    (∀ q, q < 10 → (packetAddress s p).getLsbD q = (pktByte s p (q / 8)).getLsbD (q % 8)) ∧
    (packetContinuity s p).toNat = (pktByte s p 1).toNat / 4 % 4 ∧
    (∀ q, 10 ≤ q → q < 12 → (packetContinuity s p).getLsbD (q - 10) = (pktByte s p (q / 8)).getLsbD (q % 8)) ∧
    (∀ d, d ≤ 90 → (payloadByte s p d).toNat =
      ((pktByte s p (2 + d)).toNat / 128 + 2 * (pktByte s p (3 + d)).toNat) % 256) ∧
    (∀ d t, d ≤ 90 → t < 8 → (payloadByte s p d).getLsbD t =
      (pktByte s p ((23 + 8 * d + t) / 8)).getLsbD ((23 + 8 * d + t) % 8))

/-! ## The host port (20_memory.md) -/

/-- R102 with R35: a misaligned access is a fault of the host program, read or write. -/
def Obligations.MisalignedAccessFaults : Prop :=
  ∀ (s : State) (a : HostAddr) (v : Word), s.inReset = false → a.toNat % 4 ≠ 0 →
    hostRead a s = .fault .busError ∧ hostWrite a v s = .fault .busError

/-- R41 with R115: a host read changes no state of the block. Of the model's own fields, the host's record grows by one
word, at most one value is drawn, and the polling hazard (log 12, DEDUCED) ends at a `STATUS` read that returns BUSY = 0
and is as before at every other read. -/
def Obligations.ReadsHaveNoSideEffect : Prop :=
  ∀ (s t : State) (a : HostAddr), hostRead a s = .next t →
    ∃ v d, (d = s.draws ∨ d = s.draws + 1) ∧
      t = { s with
        reads := v :: s.reads
        draws := d
        unpolled := if a = 0x00004#17 ∧ flag s.status busyBit = false then false else s.unpolled }

/-- R43 with R115 (log 12, DEDUCED, for when a command is outstanding): while one is, reads of `STATUS`, `CMD`, `WIDTH`,
`HEIGHT` and `CONFIG0..3` are exact, and a read of `LFSR`, `OFFSET`, `RESULT` or a window is a fresh draw. -/
def Obligations.ReadsWhileBusy : Prop :=
  ∀ (s : State) (a : HostAddr), s.inReset = false → outstanding s = true → a.toNat % 4 = 0 →
    ((a.toNat = 0x00000 ∨ a.toNat = 0x00004 ∨ (0x00014 ≤ a.toNat ∧ a.toNat ≤ 0x00028)) →
      ∃ t, hostRead a s = .next t ∧ t.reads = content s (locate a) :: s.reads ∧ t.draws = s.draws) ∧
    ((a.toNat = 0x00008 ∨ a.toNat = 0x0000C ∨ a.toNat = 0x00010 ∨ (0x01000 ≤ a.toNat ∧ a.toNat < 0x0C000) ∨
        0x10000 ≤ a.toNat) →
      ∃ t, hostRead a s = .next t ∧ t.reads = Config.draw 32 s.draws :: s.reads ∧ t.draws = s.draws + 1)

/-- R36, R16 to R18, R21 to R25: with no command outstanding, a read of a register returns its value, zero-extended, and
the CONFIG registers their fields. -/
def Obligations.RegisterReads : Prop :=
  ∀ s : State, s.inReset = false → outstanding s = false →
    ∀ (a : HostAddr) (v : Word),
      ((a = 0x00000#17 ∧ v = s.cmd) ∨ (a = 0x00004#17 ∧ v = s.status) ∨ (a = 0x00008#17 ∧ v = s.lfsr.setWidth 32) ∨
        (a = 0x0000C#17 ∧ v = s.offset) ∨ (a = 0x00010#17 ∧ v = s.result) ∨
        (a = 0x00014#17 ∧ v = s.width.setWidth 32) ∨ (a = 0x00018#17 ∧ v = s.height.setWidth 32) ∨
        (a = 0x0001C#17 ∧ v.toNat = s.params.l + 65536 * s.params.z) ∨
        (a = 0x00020#17 ∧ v.toNat = s.params.seed0.toNat) ∨
        (a = 0x00024#17 ∧ v.toNat = s.params.n + 65536 * s.params.d) ∨
        (a = 0x00028#17 ∧ v.toNat = s.params.ph + 65536 * s.params.row0)) →
      ∃ t, hostRead a s = .next t ∧ t.reads = v :: s.reads

/-- R36 with R38, R39: with no command outstanding, the windows read line records, packet headers, packet and payload
bytes and bitstream bits where the map says, and 0 elsewhere. -/
def Obligations.WindowReads : Prop :=
  ∀ s : State, s.inReset = false → outstanding s = false → ∀ a : HostAddr, a.toNat % 4 = 0 →
    ∃ (t : State) (v : Word), hostRead a s = .next t ∧ t.reads = v :: s.reads ∧
    (∀ n, n < 1024 → a.toNat = 0x01000 + 4 * n → v = if n < s.params.l then s.lineOfs.read n else 0#32) ∧
    (∀ n, n < 1024 → a.toNat = 0x02000 + 4 * n →
      v = if n < s.params.l then (s.lineFlags.read n).setWidth 32 else 0#32) ∧
    (∀ p, p < 1024 → a.toNat = 0x03000 + 4 * p →
      v.toNat = if p < 82 then (packetAddress s p).toNat + 65536 * (packetContinuity s p).toNat else 0) ∧
    (∀ o i, i < 4 → a.toNat = 0x04000 + o → o < 0x4000 → v.extractLsb' (8 * i) 8 =
      if (o + i) / 128 < 82 ∧ (o + i) % 128 < 94 then pktByte s ((o + i) / 128) ((o + i) % 128) else 0#8) ∧
    (∀ o i, i < 4 → a.toNat = 0x08000 + o → o < 0x4000 → v.extractLsb' (8 * i) 8 =
      if (o + i) / 128 < 82 ∧ (o + i) % 128 < 91 then payloadByte s ((o + i) / 128) ((o + i) % 128) else 0#8) ∧
    (∀ o i k, i < 4 → k < 8 → a.toNat = 0x10000 + o → BitVec.ofBool (v.getLsbD (8 * i + (7 - k))) =
      if 8 * (o + i) + k < 99 * s.params.l then streamRead s (8 * (o + i) + k) else 0#1)

/-- R37 with R18, R21, R23, R24: with no command in flight, a write to a read/write register stores its defined bits and
discards the others. -/
def Obligations.IdleRegisterWrites : Prop :=
  ∀ (s : State) (v : Word), s.inReset = false → s.eng = .idle →
    hostWrite 0x00008#17 v s = .next { s with lfsr := v.extractLsb' 0 15 } ∧
    hostWrite 0x0000C#17 v s = .next { s with offset := v } ∧
    hostWrite 0x00014#17 v s = .next { s with width := v.extractLsb' 0 16 } ∧
    hostWrite 0x00018#17 v s = .next { s with height := v.extractLsb' 0 16 }

/-- R37: a read of a reserved address returns 0, and a write to a reserved address or to a read-only location changes
nothing. -/
def Obligations.ReservedAndReadOnlyAddresses : Prop :=
  ∀ (s : State) (a : HostAddr) (v : Word), s.inReset = false → a.toNat % 4 = 0 →
    (((0x0002C ≤ a.toNat ∧ a.toNat < 0x01000) ∨ (0x0C000 ≤ a.toNat ∧ a.toNat < 0x10000)) →
      ∃ t, hostRead a s = .next t ∧ t.reads = 0#32 :: s.reads) ∧
    ((a.toNat = 0x00004 ∨ a.toNat = 0x00010 ∨ 0x0001C ≤ a.toNat) → hostWrite a v s = .next s)

/-! ## Reset (70_reset_and_hazards.md) -/

/-- R112: the reset values; no command is outstanding after reset, so every register reads as its field and every word of
every window reads 0. -/
def Obligations.ResetValues : Prop :=
  State.reset.cmd = 0#32 ∧ State.reset.status = 0#32 ∧ State.reset.lfsr = State.reset.params.seed0 ∧
  State.reset.lfsr = seed State.reset.params 0 ∧ State.reset.offset = 0#32 ∧ State.reset.result = 0#32 ∧
  State.reset.width = 0#16 ∧ State.reset.height = 0#16 ∧ State.reset.eng = .idle ∧
  (∀ i, streamRead State.reset i = 0#1) ∧ (∀ n, State.reset.lineOfs.read n = 0#32) ∧
  (∀ n, State.reset.lineFlags.read n = 0#4) ∧ (∀ p b, pktByte State.reset p b = 0#8) ∧
  (∀ k, content State.reset (.config k) = configWord State.reset.params k) ∧ outstanding State.reset = false ∧
  ∀ a : HostAddr, a.toNat % 4 = 0 → ((0x01000 ≤ a.toNat ∧ a.toNat < 0x0C000) ∨ 0x10000 ≤ a.toNat) →
    ∃ t, hostRead a State.reset = .next t ∧ t.reads.head? = some 0#32

/-- R111: from any state, a command in flight or not, asserting and releasing reset leaves every piece of the block's
state at its reset value, the engine idle and no command outstanding; the parameters and the supplier's raster stay
(log 7, DEDUCED). -/
def Obligations.ResetAbortsTheCommand : Prop :=
  ∀ (s : State) (rest : List Event), s.pending = .assertReset :: .releaseReset :: rest →
    ∃ t, runSteps 2 s = .next t ∧ t.eng = .idle ∧ t.inReset = false ∧ t.cmd = 0#32 ∧ t.status = 0#32 ∧
      t.lfsr = s.params.seed0 ∧ t.offset = 0#32 ∧ t.result = 0#32 ∧ t.width = 0#16 ∧ t.height = 0#16 ∧
      t.bitstream = [] ∧ t.lineOfs = [] ∧ t.lineFlags = [] ∧ t.pkt = [] ∧ t.params = s.params ∧
      t.raster = s.raster ∧ t.pending = rest ∧ t.unpolled = false ∧ t.disturbed = false ∧ outstanding t = false

/-- R111: while reset is asserted, host accesses are refused. That the engine does nothing then, at its own event and
when no event is pending, is the reading of log 7 (DEDUCED) with log 2 (DESIGN CHOICE). -/
def Obligations.HostAndEngineStopInReset : Prop :=
  ∀ (s : State) (a : HostAddr) (v : Word), s.inReset = true →
    hostRead a s = .refused .accessInReset ∧ hostWrite a v s = .refused .accessInReset ∧
    (s.pending = [] → step s = .next s) ∧
    (∀ rest, s.pending = .engineStep :: rest → step s = .next (withPending rest s))

/-- R25 with R8: no step changes the parameters, so every CONFIG register keeps its value. -/
def Obligations.ConfigIsConstant : Prop :=
  ∀ s t : State, step s = .next t → t.params = s.params ∧ ∀ k, content t (.config k) = content s (.config k)

/-! ## The invariant -/

/-- Every step keeps the invariant: BUSY agrees with the engine, only an accepted legal word is in flight and `CMD`
holds it, reserved STATUS bits are 0, the buffers and the raster stay in the canonical form and inside their sizes. -/
def Obligations.InvariantIsKept : Prop := ∀ s t : State, Inv s → step s = .next t → Inv t

/-- The invariant holds right after reset. -/
def Obligations.InvariantHoldsAtReset : Prop := Inv State.reset

/-! ## The raster supplier (20_memory.md) -/

/-- R40 and R34 with I10: a raster wider or taller than 65535 is refused; any other that the supplier presents is what the
port reads from then on, inside its grid, and `Sample` too once `WIDTH` and `HEIGHT` are its width and height; nothing
else changes but the model's own record of a change in flight (log 10, DEDUCED). A raster is written down in canonical
form (log 6). -/
def Obligations.SuppliedRasterIsSampled : Prop :=
  ∀ (s : State) (r : Raster) (rest : List Event), s.pending = .supplyRaster r :: rest →
    ((65535 < r.width ∨ 65535 < r.height) → step s = .refused .rasterTooLarge) ∧
    (r.width ≤ 65535 → r.height ≤ 65535 →
      ∃ t, step s = .next t ∧ t.raster.width = r.width ∧ t.raster.height = r.height ∧
        (Memory.wf (w := 8) r.cells = true → ∀ x y, x < r.width → y < r.height →
          rasterRead t x y = Memory.read (w := 8) r.cells (65536 * y + x) ∧
          (s.width.toNat = r.width → s.height.toNat = r.height →
            sample t x y = (Memory.read (w := 8) r.cells (65536 * y + x), 0))) ∧
        t = { s with raster := t.raster, disturbed := t.disturbed, pending := rest })

/-- R117 with I8: a raster of another geometry, or with another sample, presented while a command is in flight breaks the
host's duty, and the duty stays broken for as long as the command is in flight; presented while the engine is idle it
breaks none. That presenting equal samples on an equal grid is no change is the reading of log 10 (DEDUCED). -/
def Obligations.RasterChangeInFlightBreaksTheDuty : Prop :=
  (∀ (s t : State) (r : Raster) (rest : List Event) (c : Word), s.pending = .supplyRaster r :: rest →
    s.eng = .busy c → Memory.wf (w := 8) r.cells = true → step s = .next t →
      ((r.width ≠ s.raster.width ∨ r.height ≠ s.raster.height ∨ ∃ x y, x < r.width ∧ y < r.height ∧
          Memory.read (w := 8) r.cells (65536 * y + x) ≠ Memory.read (w := 8) s.raster.cells (65536 * y + x)) →
        rasterStable t = false) ∧
      (RasterWf s.raster → r.width = s.raster.width → r.height = s.raster.height →
        (∀ x y, x < r.width → y < r.height →
          Memory.read (w := 8) r.cells (65536 * y + x) = Memory.read (w := 8) s.raster.cells (65536 * y + x)) →
        t = withPending rest s)) ∧
  (∀ (s t : State) (c c' : Word), s.eng = .busy c → step s = .next t → t.eng = .busy c' → s.disturbed = true →
    rasterStable t = false) ∧
  (∀ (s t : State) (r : Raster) (rest : List Event), s.pending = .supplyRaster r :: rest → s.eng = .idle →
    step s = .next t → t.disturbed = false)
end

