-- ==== Sys2Proof/Laws/Coding.lean ====
section
/-! SUPPORT. The fields of a command word that the encoder writes (30_encoding.md R46). -/

namespace Sys2Proof

/-- Bit `i` of a command word. -/
theorem commandWord_getLsbD (op : BitVec 4) (x : BitVec 10) (i : Nat) :
    (commandWord op x).getLsbD i =
      if i < 10 then x.getLsbD i else if i < 28 then false else op.getLsbD (i - 28) := by
  unfold commandWord
  rw [BitVec.getLsbD_append, BitVec.getLsbD_append]
  by_cases h10 : i < 10
  · simp [h10, show i < 28 by omega]
  · by_cases h28 : i < 28 <;> simp [h10, h28]

theorem opField_commandWord (op : BitVec 4) (x : BitVec 10) : opField (commandWord op x) = op := by
  apply BitVec.eq_of_getLsbD_eq
  intro i hi
  simp [opField, commandWord_getLsbD, hi, show ¬ 28 + i < 10 by omega]

theorem nField_commandWord (op : BitVec 4) (x : BitVec 10) : nField (commandWord op x) = x := by
  apply BitVec.eq_of_getLsbD_eq
  intro i hi
  simp [nField, commandWord_getLsbD, hi]

theorem vField_commandWord (op : BitVec 4) (v : Byte) :
    vField (commandWord op (v.setWidth 10)) = v := by
  apply BitVec.eq_of_getLsbD_eq
  intro i hi
  simp [vField, commandWord_getLsbD, hi, show i < 10 by omega]

end Sys2Proof
end

