-- ==== Sys2Proof/Laws/Flags.lean ====
section
/-! SUPPORT. What the flag operations do to every bit of STATUS. -/

namespace Sys2Proof.Machine

/-- Bit `j` after a write of bit `k`. -/
@[simp] theorem flag_putFlag (st : Word) (k j : Nat) (b : Bool) (hj : j < 32) :
    flag (putFlag st k b) j = if j = k then b else flag st j := by
  unfold flag putFlag
  cases b <;> by_cases h : j = k <;> simp [h, hj, BitVec.getLsbD_shiftLeft] <;> omega

/-- A word has 32 bits. -/
theorem flag_of_ge (st : Word) (j : Nat) (h : 32 ≤ j) : flag st j = false := by
  unfold flag
  exact BitVec.getLsbD_of_ge st j h

/-- Writing bit `k` leaves every other bit. -/
theorem flag_putFlag_other (st : Word) (k j : Nat) (b : Bool) (h : j ≠ k) :
    flag (putFlag st k b) j = flag st j := by
  by_cases hj : j < 32
  · rw [flag_putFlag st k j b hj, if_neg h]
  · rw [flag_of_ge _ j (by omega), flag_of_ge _ j (by omega)]

/-- Acceptance clears bits 10:1 and keeps the others (30_encoding.md R50). -/
@[simp] theorem flag_clearFlags (st : Word) (j : Nat) :
    flag (clearFlags st) j = if 1 ≤ j ∧ j ≤ 10 then false else flag st j := by
  by_cases hj : j < 32
  · unfold flag clearFlags
    interval_cases j <;> simp
  · rw [flag_of_ge _ j (by omega), flag_of_ge _ j (by omega), ite_self]

/-- Two words with the same bits are equal. -/
theorem status_ext (a b : Word) (h : ∀ j, j < 32 → flag a j = flag b j) : a = b :=
  BitVec.eq_of_getLsbD_eq fun j hj => h j hj

/-- The reserved bits, one by one. -/
theorem statusReserved_iff (st : Word) :
    StatusReserved st ↔ ∀ j, (j = 6 ∨ j = 7 ∨ 11 ≤ j) → flag st j = false := by
  unfold StatusReserved
  constructor
  · intro h j hj
    by_cases hj32 : j < 32
    · have hbit : (st &&& 0xFFFFF8C0#32).getLsbD j = (0#32).getLsbD j := by rw [h]
      rw [BitVec.getLsbD_and] at hbit
      clear h
      unfold flag
      interval_cases j <;> simp_all
    · exact flag_of_ge st j (by omega)
  · intro h
    refine status_ext _ _ fun j hj => ?_
    have hf := h j
    unfold flag at hf ⊢
    interval_cases j <;> simp_all

/-- A write of a defined bit keeps the reserved bits at 0. -/
theorem statusReserved_putFlag (st : Word) (k : Nat) (b : Bool) (h : StatusReserved st) (h6 : k ≠ 6) (h7 : k ≠ 7)
    (h11 : k < 11) : StatusReserved (putFlag st k b) := by
  rw [statusReserved_iff] at h ⊢
  intro j hj
  rw [flag_putFlag_other st k j b (by omega)]
  exact h j hj

theorem statusReserved_clearFlags (st : Word) (h : StatusReserved st) : StatusReserved (clearFlags st) := by
  rw [statusReserved_iff] at h ⊢
  intro j hj
  rw [flag_clearFlags, h j hj, ite_self]

theorem statusReserved_raise (st : Word) (k : Condition) (h : StatusReserved st) :
    StatusReserved (putFlag st (conditionCode k) true) := by
  cases k <;> exact statusReserved_putFlag _ _ _ h (by decide) (by decide) (by decide)

theorem statusReserved_putSyncFlags (st : Word) (f : SyncFlags) (h : StatusReserved st) :
    StatusReserved (putSyncFlags st f) := by
  unfold putSyncFlags
  repeat' apply statusReserved_putFlag
  all_goals first | exact h | decide

theorem statusReserved_putFrameFlags (st : Word) (a b : Bool) (h : StatusReserved st) :
    StatusReserved (putFrameFlags st a b) := by
  unfold putFrameFlags
  repeat' apply statusReserved_putFlag
  all_goals first | exact h | decide

/-- FIND_SYNC's flag writes, bit by bit (42_synchronizer.md R74). -/
theorem flag_putSyncFlags (st : Word) (f : SyncFlags) (j : Nat) (hj : j < 32) :
    flag (putSyncFlags st f) j =
      if j = oorBit then f.oor else if j = syncFailBit then f.fail else if j = syncPatBit then f.pat
      else if j = syncFoundBit then f.found else flag st j := by
  unfold putSyncFlags
  simp only [flag_putFlag _ _ _ _ hj]

/-- DECODE_FRAME's flag writes, bit by bit (44_frame.md R85). -/
theorem flag_putFrameFlags (st : Word) (fail oor : Bool) (j : Nat) (hj : j < 32) :
    flag (putFrameFlags st fail oor) j =
      if j = oorBit then oor else if j = syncFailBit then fail else flag st j := by
  unfold putFrameFlags
  simp only [flag_putFlag _ _ _ _ hj]

end Sys2Proof.Machine
end

