-- ==== Sys2Proof/Laws/Memory.lean ====
section
/-! SUPPORT. What the sparse memory's operations do: read after write, the canonical form, the bound on addresses. -/

namespace Sys2Proof.Machine

variable {w : Nat}

@[simp] theorem Memory.read_nil (a : Nat) : Memory.read ([] : Memory w) a = 0#w := rfl

theorem Memory.read_cons (b : Nat) (u : BitVec w) (m : Memory w) (a : Nat) :
    Memory.read ((b, u) :: m) a = if b = a then u else Memory.read m a := rfl

theorem Memory.wf_cons (a : Nat) (v : BitVec w) (m : Memory w) :
    Memory.wf ((a, v) :: m) = true ↔ v ≠ 0#w ∧ (∀ c ∈ m, a < c.1) ∧ Memory.wf m = true := by
  induction m generalizing a v with
  | nil => simp [Memory.wf]
  | cons c m ih =>
    obtain ⟨b, u⟩ := c
    have step : Memory.wf ((a, v) :: (b, u) :: m) = true ↔
        v ≠ 0#w ∧ a < b ∧ Memory.wf ((b, u) :: m) = true := by
      simp [Memory.wf, and_assoc]
    rw [step]
    constructor
    · rintro ⟨hv, hab, hm⟩
      refine ⟨hv, ?_, hm⟩
      intro c hc
      rcases List.mem_cons.mp hc with rfl | hc
      · exact hab
      · exact lt_trans hab (((ih b u).mp hm).2.1 c hc)
    · rintro ⟨hv, hall, hm⟩
      exact ⟨hv, hall (b, u) (by simp), hm⟩

theorem Memory.read_of_lt (m : Memory w) (a : Nat) (h : ∀ c ∈ m, a < c.1) : Memory.read m a = 0#w := by
  induction m with
  | nil => rfl
  | cons c m ih =>
    obtain ⟨b, u⟩ := c
    have hb : a < b := h (b, u) (by simp)
    rw [Memory.read_cons, if_neg (by omega)]
    exact ih fun c hc => h c (by simp [hc])

theorem Memory.read_cell_same (a : Nat) (v : BitVec w) (m : Memory w) (h : ∀ c ∈ m, a < c.1) :
    Memory.read (Memory.cell a v m) a = v := by
  unfold Memory.cell
  split
  · next hv => rw [Memory.read_of_lt m a h, hv]
  · simp [Memory.read_cons]

theorem Memory.read_cell_other (a b : Nat) (v : BitVec w) (m : Memory w) (h : b ≠ a) :
    Memory.read (Memory.cell a v m) b = Memory.read m b := by
  unfold Memory.cell
  split
  · rfl
  · rw [Memory.read_cons, if_neg (Ne.symm h)]

/-- Reading any cell after a write, on a memory in the canonical form. -/
theorem Memory.read_write (m : Memory w) (a b : Nat) (v : BitVec w) (hm : Memory.wf m = true) :
    Memory.read (Memory.write m a v) b = if b = a then v else Memory.read m b := by
  induction m with
  | nil =>
    unfold Memory.write
    split
    · next h => rw [h, Memory.read_cell_same]; simp
    · next h => exact Memory.read_cell_other a b v [] h
  | cons c m ih =>
    obtain ⟨e, u⟩ := c
    obtain ⟨-, hlt, hwf⟩ := (Memory.wf_cons e u m).mp hm
    unfold Memory.write
    split
    · next hae =>
      split
      · next h =>
        rw [h, Memory.read_cell_same]
        intro c hc
        rcases List.mem_cons.mp hc with rfl | hc
        · exact hae
        · exact lt_trans hae (hlt c hc)
      · next h => exact Memory.read_cell_other a b v _ h
    · split
      · next hae =>
        subst hae
        split
        · next h => rw [h, Memory.read_cell_same a v m hlt]
        · next h => rw [Memory.read_cell_other a b v m h, Memory.read_cons, if_neg (Ne.symm h)]
      · next h1 h2 =>
        rw [Memory.read_cons, ih hwf, Memory.read_cons]
        by_cases heb : e = b
        · subst heb
          rw [if_pos rfl, if_neg (fun h => h2 h.symm), if_pos rfl]
        · rw [if_neg heb, if_neg heb]

/-- Another cell reads as before; this holds on every list, canonical or not. -/
theorem Memory.read_write_other (m : Memory w) (a b : Nat) (v : BitVec w) (h : b ≠ a) :
    Memory.read (Memory.write m a v) b = Memory.read m b := by
  induction m with
  | nil => exact Memory.read_cell_other a b v [] h
  | cons c m ih =>
    obtain ⟨e, u⟩ := c
    unfold Memory.write
    split
    · exact Memory.read_cell_other a b v _ h
    · split
      · next hae => rw [Memory.read_cell_other a b v m h, Memory.read_cons, if_neg (fun he => h (by omega))]
      · rw [Memory.read_cons, ih, Memory.read_cons]

theorem Memory.mem_cell (a : Nat) (v : BitVec w) (m : Memory w) (c : Nat × BitVec w)
    (h : c ∈ Memory.cell a v m) : c = (a, v) ∨ c ∈ m := by
  unfold Memory.cell at h
  split at h
  · exact .inr h
  · exact List.mem_cons.mp h

theorem Memory.mem_write (m : Memory w) (a : Nat) (v : BitVec w) (c : Nat × BitVec w)
    (h : c ∈ Memory.write m a v) : c = (a, v) ∨ c ∈ m := by
  induction m with
  | nil => exact Memory.mem_cell a v [] c h
  | cons d m ih =>
    obtain ⟨e, u⟩ := d
    unfold Memory.write at h
    split at h
    · exact Memory.mem_cell a v _ c h
    · split at h
      · exact (Memory.mem_cell a v m c h).imp_right fun h => List.mem_cons_of_mem _ h
      · rcases List.mem_cons.mp h with h | h
        · exact .inr (h ▸ List.mem_cons_self)
        · exact (ih h).imp_right fun h => List.mem_cons_of_mem _ h

theorem Memory.wf_cell (a : Nat) (v : BitVec w) (m : Memory w) (hm : Memory.wf m = true)
    (h : ∀ c ∈ m, a < c.1) : Memory.wf (Memory.cell a v m) = true := by
  unfold Memory.cell
  split
  · exact hm
  · next hv => exact (Memory.wf_cons a v m).mpr ⟨hv, h, hm⟩

/-- A write keeps the canonical form. -/
theorem Memory.wf_write (m : Memory w) (a : Nat) (v : BitVec w) (hm : Memory.wf m = true) :
    Memory.wf (Memory.write m a v) = true := by
  induction m with
  | nil => exact Memory.wf_cell a v [] rfl (by simp)
  | cons c m ih =>
    obtain ⟨e, u⟩ := c
    obtain ⟨hu, hlt, hwf⟩ := (Memory.wf_cons e u m).mp hm
    unfold Memory.write
    split
    · next hae =>
      refine Memory.wf_cell a v _ hm fun c hc => ?_
      rcases List.mem_cons.mp hc with rfl | hc
      · exact hae
      · exact lt_trans hae (hlt c hc)
    · split
      · next hae => exact Memory.wf_cell a v m hwf (hae ▸ hlt)
      · next h1 h2 =>
        refine (Memory.wf_cons e u _).mpr ⟨hu, fun c hc => ?_, ih hwf⟩
        rcases Memory.mem_write m a v c hc with rfl | hc
        · show e < a
          omega
        · exact hlt c hc

theorem Memory.below_iff (m : Memory w) (bound : Nat) :
    Memory.below m bound = true ↔ ∀ c ∈ m, c.1 < bound := by
  simp [Memory.below]

/-- A write below the bound keeps every listed address below it. -/
theorem Memory.below_write (m : Memory w) (a bound : Nat) (v : BitVec w) (hm : Memory.below m bound = true)
    (ha : a < bound) : Memory.below (Memory.write m a v) bound = true := by
  rw [Memory.below_iff] at hm ⊢
  intro c hc
  rcases Memory.mem_write m a v c hc with rfl | hc
  · exact ha
  · exact hm c hc

theorem Memory.wf_writeRange (vs : List (BitVec w)) (m : Memory w) (base : Nat) (hm : Memory.wf m = true) :
    Memory.wf (Memory.writeRange m base vs) = true := by
  induction vs generalizing m base with
  | nil => exact hm
  | cons v vs ih => exact ih _ _ (Memory.wf_write m base v hm)

theorem Memory.below_writeRange (vs : List (BitVec w)) (m : Memory w) (base bound : Nat)
    (hm : Memory.below m bound = true) (hb : base + vs.length ≤ bound) :
    Memory.below (Memory.writeRange m base vs) bound = true := by
  induction vs generalizing m base with
  | nil => exact hm
  | cons v vs ih =>
    simp only [List.length_cons] at hb
    exact ih _ _ (Memory.below_write m base bound v hm (by omega)) (by omega)

/-- A cell outside the written range reads as before. -/
theorem Memory.read_writeRange_other (vs : List (BitVec w)) (m : Memory w) (base b : Nat)
    (h : b < base ∨ base + vs.length ≤ b) :
    Memory.read (Memory.writeRange m base vs) b = Memory.read m b := by
  induction vs generalizing m base with
  | nil => rfl
  | cons v vs ih =>
    simp only [List.length_cons] at h
    unfold Memory.writeRange
    rw [ih _ _ (by omega), Memory.read_write_other m base b v (by omega)]

/-- A cell inside the written range reads the value written there. -/
theorem Memory.read_writeRange_inside (vs : List (BitVec w)) (m : Memory w) (base j : Nat)
    (hm : Memory.wf m = true) (hj : j < vs.length) :
    Memory.read (Memory.writeRange m base vs) (base + j) = vs[j] := by
  induction vs generalizing m base j with
  | nil => exact absurd hj (by simp)
  | cons v vs ih =>
    unfold Memory.writeRange
    cases j with
    | zero =>
      rw [Memory.read_writeRange_other _ _ _ _ (by omega), Nat.add_zero, Memory.read_write m base base v hm]
      simp
    | succ j =>
      simp only [List.length_cons] at hj
      rw [show base + (j + 1) = base + 1 + j by omega, ih _ _ _ (Memory.wf_write m base v hm) (by omega)]
      simp

/-- Two memories in the canonical form that read alike everywhere are equal. -/
theorem Memory.eq_of_read (m m' : Memory w) (hm : Memory.wf m = true) (hm' : Memory.wf m' = true)
    (h : ∀ a, Memory.read m a = Memory.read m' a) : m = m' := by
  induction m generalizing m' with
  | nil =>
    cases m' with
    | nil => rfl
    | cons c r =>
      obtain ⟨a, v⟩ := c
      obtain ⟨hv, -, -⟩ := (Memory.wf_cons a v r).mp hm'
      have := h a
      rw [Memory.read_nil, Memory.read_cons, if_pos rfl] at this
      exact absurd this.symm hv
  | cons c r ih =>
    obtain ⟨a, v⟩ := c
    obtain ⟨hv, hlt, hwf⟩ := (Memory.wf_cons a v r).mp hm
    cases m' with
    | nil =>
      have := h a
      rw [Memory.read_nil, Memory.read_cons, if_pos rfl] at this
      exact absurd this hv
    | cons d r' =>
      obtain ⟨b, u⟩ := d
      obtain ⟨hu, hlt', hwf'⟩ := (Memory.wf_cons b u r').mp hm'
      have hab : a = b := by
        rcases Nat.lt_trichotomy a b with hab | hab | hab
        · have := h a
          rw [Memory.read_cons, if_pos rfl, Memory.read_cons, if_neg (by omega),
            Memory.read_of_lt r' a fun c hc => lt_trans hab (hlt' c hc)] at this
          exact absurd this hv
        · exact hab
        · have := h b
          rw [Memory.read_cons, if_neg (by omega), Memory.read_cons, if_pos rfl,
            Memory.read_of_lt r b fun c hc => lt_trans hab (hlt c hc)] at this
          exact absurd this.symm hu
      subst hab
      have huv : v = u := by
        have := h a
        rwa [Memory.read_cons, if_pos rfl, Memory.read_cons, if_pos rfl] at this
      subst huv
      congr 1
      refine ih r' hwf hwf' fun b => ?_
      by_cases hb : a = b
      · subst hb
        rw [Memory.read_of_lt r a hlt, Memory.read_of_lt r' a hlt']
      · have := h b
        rwa [Memory.read_cons, if_neg hb, Memory.read_cons, if_neg hb] at this

/-! ## The model's memories -/

/-- A supplied raster's samples are in the canonical form. -/
theorem normalRaster_cells_wf (r : Raster) : Memory.wf (w := 8) (normalRaster r).cells = true := by
  have fold : ∀ (cs : List Host.Cell) (m : Memory 8), Memory.wf m = true →
      Memory.wf (cs.foldl (fun m c => Memory.write (w := 8) m c.1 c.2) m) = true := by
    intro cs
    induction cs with
    | nil => exact fun m hm => hm
    | cons c cs ih => exact fun m hm => ih _ (Memory.wf_write m c.1 c.2 hm)
  exact fold _ [] rfl

/-- Writing the cells of a canonical list that satisfy `p`: such a cell reads as listed, any other as before. -/
theorem Memory.read_foldl_write (p : Nat → Bool) (cs m : Memory w) (a : Nat) (hc : Memory.wf cs = true)
    (hm : Memory.wf m = true) :
    Memory.read ((cs.filter fun c => p c.1).foldl (fun m c => Memory.write m c.1 c.2) m) a =
      if p a = true ∧ ∃ c ∈ cs, c.1 = a then Memory.read cs a else Memory.read m a := by
  induction cs generalizing m with
  | nil => simp
  | cons c cs ih =>
    obtain ⟨b, v⟩ := c
    obtain ⟨-, hlt, hcs⟩ := (Memory.wf_cons b v cs).mp hc
    rw [Memory.read_cons]
    by_cases hb : b = a
    · subst hb
      have hnot : ¬ ∃ c ∈ cs, c.1 = b := fun ⟨c, hm, he⟩ => absurd (hlt c hm) (by omega)
      by_cases hp : p b = true
      · rw [List.filter_cons_of_pos (by exact hp), List.foldl_cons, ih _ hcs (Memory.wf_write m b v hm),
          if_neg fun h => hnot h.2, if_pos ⟨hp, _, List.mem_cons_self .., rfl⟩, if_pos rfl,
          Memory.read_write m b b v hm, if_pos rfl]
      · rw [List.filter_cons_of_neg (by exact hp), ih _ hcs hm, if_neg fun h => hp h.1, if_neg fun h => hp h.1]
    · have hex : (∃ c ∈ (b, v) :: cs, c.1 = a) ↔ ∃ c ∈ cs, c.1 = a := by simp [hb]
      rw [if_neg hb]
      simp only [hex]
      by_cases hp : p b = true
      · rw [List.filter_cons_of_pos (by exact hp), List.foldl_cons, ih _ hcs (Memory.wf_write m b v hm),
          Memory.read_write_other m b a v fun h => hb h.symm]
      · rw [List.filter_cons_of_neg (by exact hp), ih _ hcs hm]

/-- An address that is not listed reads 0. -/
theorem Memory.read_unlisted (m : Memory w) (a : Nat) (h : ¬ ∃ c ∈ m, c.1 = a) : Memory.read m a = 0#w := by
  induction m with
  | nil => rfl
  | cons c m ih =>
    obtain ⟨b, v⟩ := c
    rw [Memory.read_cons, if_neg fun hb => h ⟨_, List.mem_cons_self .., hb⟩]
    exact ih fun ⟨c, hc, he⟩ => h ⟨c, List.mem_cons_of_mem _ hc, he⟩

/-- A supplied raster reads, inside its grid, as the supplier listed it, and lists nothing outside. -/
theorem normalRaster_read (r : Raster) (hr : Memory.wf (w := 8) r.cells = true) (a : Nat) :
    Memory.read (w := 8) (normalRaster r).cells a =
      if inGrid r a = true then Memory.read (w := 8) r.cells a else 0#8 := by
  have h := Memory.read_foldl_write (inGrid r) r.cells [] a hr rfl
  refine Eq.trans h ?_
  by_cases hg : inGrid r a = true
  · by_cases hx : ∃ c ∈ r.cells, c.1 = a
    · rw [if_pos ⟨hg, hx⟩, if_pos hg]
    · rw [if_neg fun h => hx h.2, if_pos hg, Memory.read_unlisted _ a hx, Memory.read_nil]
  · rw [if_neg fun h => hg h.1, if_neg hg, Memory.read_nil]

/-- The key of a position inside the grid. -/
theorem inGrid_key (r : Raster) (x y : Nat) (hw : r.width ≤ Config.maxExtent) (hx : x < r.width) (hy : y < r.height) :
    inGrid r (rasterKey x y) = true := by
  unfold Config.maxExtent at hw
  unfold inGrid rasterKey
  rw [show (65536 * y + x) % 65536 = x by omega, show (65536 * y + x) / 65536 = y by omega]
  simp [hx, hy]

/-- After reset every buffer, and the raster, is in the canonical form, whatever the parameters. -/
theorem resetWith_memories_wf (p : Params) :
    Memory.wf (State.resetWith p).bitstream = true ∧ Memory.wf (State.resetWith p).lineOfs = true ∧
      Memory.wf (State.resetWith p).lineFlags = true ∧ Memory.wf (State.resetWith p).pkt = true ∧
      Memory.wf (w := 8) (State.resetWith p).raster.cells = true := ⟨rfl, rfl, rfl, rfl, rfl⟩

end Sys2Proof.Machine
end

