-- ==== Sys2Proof/Laws/Sampling.lean ====
section
/-! SUPPORT. What the scrambler, the synchronizer, the sampler and the frame decoder compute, said once. -/

namespace Sys2Proof.Machine

/-! ## Scrambler -/

/-- One advance, bit by bit (40_scrambler.md R55). -/
theorem advance_getLsbD (S : Scrambler) (i : Nat) :
    (advance S).1.getLsbD i =
      if i < 14 then S.getLsbD (i + 1) else if i = 14 then (S.getLsbD 0 ^^ S.getLsbD 14) else false := by
  unfold advance
  simp only [BitVec.getLsbD_append, BitVec.getLsbD_extractLsb', BitVec.getLsbD_xor]
  by_cases h : i < 14
  · simp [h, Nat.add_comm]
  · by_cases h' : i = 14
    · subst h'; simp
    · simp [h, h', show ¬ i - 14 < 1 by omega]

theorem advance_output (S : Scrambler) : (advance S).2 = BitVec.ofBool (S.getLsbD 0) := by
  unfold advance
  apply BitVec.eq_of_getLsbD_eq
  intro i hi
  have : i = 0 := by omega
  subst this
  simp

theorem advanceN_succ' (k : Nat) (S : Scrambler) : advanceN (k + 1) S = (advance (advanceN k S)).1 := by
  induction k generalizing S with
  | zero => rfl
  | succ k ih => exact ih (advance S).1

theorem advanceN_add (j k : Nat) (S : Scrambler) : advanceN (j + k) S = advanceN k (advanceN j S) := by
  induction j generalizing S with
  | zero => rw [Nat.zero_add]; rfl
  | succ j ih => rw [show j + 1 + k = (j + k) + 1 by omega]; exact ih (advance S).1

theorem advanceN_eq_iterate (k : Nat) (S : Scrambler) : advanceN k S = (fun S => (advance S).1)^[k] S := by
  induction k generalizing S with
  | zero => rfl
  | succ k ih => rw [Function.iterate_succ_apply]; exact ih _

/-! ## Samples -/

/-- Two states that sample row `y` alike and have the same grid and width. -/
structure SameRow (s s' : State) (y : Int) : Prop where
  params : s'.params = s.params
  width : s'.width = s.width
  sample : ∀ x, sample s' x y = sample s x y

theorem syncWordFrom_congr {s s' : State} {y : Int} (h : SameRow s s' y) (x : Int) (m k : Nat) (w : BitVec 6)
    (oor : Nat) : syncWordFrom s' x y m k w oor = syncWordFrom s x y m k w oor := by
  induction m generalizing k w oor with
  | zero => rfl
  | succ m ih => simp only [syncWordFrom, h.params, h.sample, ih]

theorem syncWord_congr {s s' : State} {y : Int} (h : SameRow s s' y) (x : Int) :
    syncWord s' x y = syncWord s x y := syncWordFrom_congr h x _ _ _ _

theorem scanFrom_congr {s s' : State} {y : Int} (h : SameRow s s' y) (m x oor : Nat) :
    scanFrom s' y m x oor = scanFrom s y m x oor := by
  induction m generalizing x oor with
  | zero => simp only [scanFrom, failOffset, h.width]
  | succ m ih => simp only [scanFrom, syncWord_congr h, ih]

theorem findSync_congr {s s' : State} {n : Nat} (h : SameRow s s' (rowOf s.params n)) :
    findSync s' n = findSync s n := by
  simp only [findSync, h.params, h.width, scanFrom_congr h]

theorem sampleFrom_congr {s s' : State} {y : Int} (h : SameRow s s' y) (ofs : Int) (m j : Nat) (S : Scrambler) :
    sampleFrom s' y ofs m j S = sampleFrom s y ofs m j S := by
  induction m generalizing j S with
  | zero => rfl
  | succ m ih => simp only [sampleFrom, h.params, h.sample, ih]

theorem sampleLine_congr {s s' : State} {n : Nat} (h : SameRow s s' (rowOf s.params n)) (ofs : Int)
    (S : Scrambler) : sampleLine s' n ofs S = sampleLine s n ofs S := by
  simp only [sampleLine, h.params, sampleFrom_congr h]

/-- States with the same geometry, raster and draw counter sample every row alike. -/
theorem sameRow_of_fields {s s' : State} (hp : s'.params = s.params) (hw : s'.width = s.width)
    (hh : s'.height = s.height) (hr : s'.raster = s.raster) (hd : s'.draws = s.draws) (y : Int) :
    SameRow s s' y where
  params := hp
  width := hw
  sample x := by
    unfold sample inRange rasterRead
    rw [hw, hh, hr, hd]

theorem sample_count (s : State) (x y : Int) : (sample s x y).2 = if inRange s x y then 0 else 1 := by
  unfold sample
  split <;> rfl

theorem outOfRangeCount_nil (s : State) (y : Int) : outOfRangeCount s y [] = 0 := rfl

theorem outOfRangeCount_cons (s : State) (y x : Int) (xs : List Int) :
    outOfRangeCount s y (x :: xs) = (sample s x y).2 + outOfRangeCount s y xs := by
  rw [sample_count]
  unfold outOfRangeCount
  rw [List.countP_cons]
  cases inRange s x y <;> simp [Nat.add_comm]

theorem outOfRangeCount_append (s : State) (y : Int) (xs ys : List Int) :
    outOfRangeCount s y (xs ++ ys) = outOfRangeCount s y xs + outOfRangeCount s y ys := by
  simp [outOfRangeCount, List.countP_append]

/-! ## The synchronization word and the scan -/

theorem syncWordFrom_count (s : State) (x y : Int) (m k : Nat) (w : BitVec 6) (oor : Nat) :
    (syncWordFrom s x y m k w oor).2 =
      oor + outOfRangeCount s y ((List.range' k m).map fun k => x + (pos s.params k : Int)) := by
  induction m generalizing k w oor with
  | zero => rfl
  | succ m ih =>
    simp only [syncWordFrom, ih, List.range'_succ, List.map_cons, outOfRangeCount_cons]
    omega

/-- A candidate's count is that of the columns it reads. -/
theorem syncWord_count (s : State) (x y : Int) : (syncWord s x y).2 = outOfRangeCount s y (syncColumns s x) := by
  unfold syncWord syncColumns
  rw [syncWordFrom_count, List.range_eq_range', Nat.zero_add]

/-- What a scan of the candidates `x .. x + m − 1` finds: its first match, or none. `v` is how many candidates it
visits (42_synchronizer.md R72). -/
theorem scanFrom_cases (s : State) (y : Int) (m x oor : Nat) :
    ∃ v, v ≤ m ∧ (∀ i, i + 1 < v → ¬ Matches s (x + i : Nat) y) ∧
      (scanFrom s y m x oor).oor =
        oor + outOfRangeCount s y ((List.range' x v).flatMap fun (i : Nat) => syncColumns s i) ∧
      ((∃ i, v = i + 1 ∧ Matches s (x + i : Nat) y ∧ (scanFrom s y m x oor).found = true ∧
          (scanFrom s y m x oor).pat = decide ((syncWord s (x + i : Nat) y).1 = Config.syncB) ∧
          (scanFrom s y m x oor).ofs = ((x + i : Nat) : Int) - 1) ∨
        (v = m ∧ (∀ i, i < m → ¬ Matches s (x + i : Nat) y) ∧ (scanFrom s y m x oor).found = false ∧
          (scanFrom s y m x oor).pat = false ∧ (scanFrom s y m x oor).ofs = failOffset s)) := by
  induction m generalizing x oor with
  | zero => exact ⟨0, le_refl _, by simp, by simp [scanFrom, outOfRangeCount_nil], .inr ⟨rfl, by simp, rfl, rfl, rfl⟩⟩
  | succ m ih =>
    by_cases hA : (syncWord s x y).1 = Config.syncA
    · have hscan : scanFrom s y (m + 1) x oor =
          { found := true, pat := false, ofs := (x : Int) - 1, oor := oor + (syncWord s x y).2 } := by
        simp only [scanFrom, if_pos hA]
      rw [hscan]
      refine ⟨1, by omega, by omega, by simp [syncWord_count], .inl ⟨0, rfl, .inl hA, rfl, ?_, rfl⟩⟩
      rw [Nat.add_zero, hA]
      rfl
    · by_cases hB : (syncWord s x y).1 = Config.syncB
      · have hscan : scanFrom s y (m + 1) x oor =
            { found := true, pat := true, ofs := (x : Int) - 1, oor := oor + (syncWord s x y).2 } := by
          simp only [scanFrom, if_neg hA, if_pos hB]
        rw [hscan]
        refine ⟨1, by omega, by omega, by simp [syncWord_count], .inl ⟨0, rfl, .inr hB, rfl, ?_, rfl⟩⟩
        rw [Nat.add_zero, hB]
        rfl
      · have hx : ¬ Matches s x y := fun h => h.elim hA hB
        have hscan : scanFrom s y (m + 1) x oor = scanFrom s y m (x + 1) (oor + (syncWord s x y).2) := by
          simp only [scanFrom, if_neg hA, if_neg hB]
        rw [hscan]
        obtain ⟨v, hv, hbefore, hoor, hcase⟩ := ih (x + 1) (oor + (syncWord s x y).2)
        refine ⟨v + 1, by omega, ?_, ?_, ?_⟩
        · intro i hi
          cases i with
          | zero => exact hx
          | succ i =>
            rw [show x + (i + 1) = x + 1 + i by omega]
            exact hbefore i (by omega)
        · rw [hoor, List.range'_succ, List.flatMap_cons, outOfRangeCount_append, syncWord_count]
          omega
        · rcases hcase with ⟨i, rfl, hm, hf, hp, ho⟩ | ⟨rfl, hnone, hf, hp, ho⟩
          · refine .inl ⟨i + 1, rfl, ?_⟩
            rw [show x + (i + 1) = x + 1 + i by omega]
            exact ⟨hm, hf, hp, ho⟩
          · refine .inr ⟨rfl, ?_, hf, hp, ho⟩
            intro i hi
            cases i with
            | zero => exact hx
            | succ i =>
              rw [show x + (i + 1) = x + 1 + i by omega]
              exact hnone i (by omega)

/-! ## The bits of a line -/

theorem sampleFrom_length (s : State) (y ofs : Int) (m j : Nat) (S : Scrambler) :
    (sampleFrom s y ofs m j S).bits.length = m := by
  induction m generalizing j S with
  | zero => rfl
  | succ m ih => simp [sampleFrom, ih]

@[simp] theorem sampleLine_length (s : State) (n : Nat) (ofs : Int) (S : Scrambler) :
    (sampleLine s n ofs S).bits.length = 99 := sampleFrom_length s _ ofs 99 0 S

/-- Bit `i` sampled: the classified sample XORed with the `i`-th output (43_sampler.md R76). -/
theorem sampleFrom_bit (s : State) (y ofs : Int) (m j i : Nat) (S : Scrambler)
    (hi : i < (sampleFrom s y ofs m j S).bits.length) :
    (sampleFrom s y ofs m j S).bits[i] =
      classify (sample s (dataColumn s.params ofs (j + i)) y).1 ^^^ scramblerBit S i := by
  induction m generalizing j i S with
  | zero => exact absurd hi (by simp [sampleFrom])
  | succ m ih =>
    cases i with
    | zero => rfl
    | succ i =>
      have hi' : i < (sampleFrom s y ofs m (j + 1) (advance S).1).bits.length := by
        simpa [sampleFrom] using hi
      have hrec := ih (j + 1) i (advance S).1 hi'
      rw [show j + 1 + i = j + (i + 1) by omega] at hrec
      simp only [sampleFrom, List.getElem_cons_succ]
      exact hrec

theorem sampleLine_bit (s : State) (n : Nat) (ofs : Int) (S : Scrambler) (i : Nat)
    (hi : i < (sampleLine s n ofs S).bits.length) :
    (sampleLine s n ofs S).bits[i] =
      classify (sample s (dataColumn s.params ofs i) (rowOf s.params n)).1 ^^^ scramblerBit S i := by
  have h := sampleFrom_bit s (rowOf s.params n) ofs 99 0 i S hi
  rwa [Nat.zero_add] at h

theorem sampleFrom_scrambler (s : State) (y ofs : Int) (m j : Nat) (S : Scrambler) :
    (sampleFrom s y ofs m j S).scrambler = advanceN m S := by
  induction m generalizing j S with
  | zero => rfl
  | succ m ih => exact ih (j + 1) (advance S).1

theorem sampleLine_scrambler (s : State) (n : Nat) (ofs : Int) (S : Scrambler) :
    (sampleLine s n ofs S).scrambler = advanceN 99 S := sampleFrom_scrambler s _ ofs 99 0 S

theorem sampleFrom_count (s : State) (y ofs : Int) (m j : Nat) (S : Scrambler) :
    (sampleFrom s y ofs m j S).oor =
      outOfRangeCount s y ((List.range' j m).map fun j => dataColumn s.params ofs j) := by
  induction m generalizing j S with
  | zero => rfl
  | succ m ih => simp only [sampleFrom, ih, List.range'_succ, List.map_cons, outOfRangeCount_cons]

/-- A line's count is that of its 99 columns. -/
theorem sampleLine_count (s : State) (n : Nat) (ofs : Int) (S : Scrambler) :
    (sampleLine s n ofs S).oor = outOfRangeCount s (rowOf s.params n) (dataColumns s ofs) := by
  unfold sampleLine dataColumns
  rw [sampleFrom_count, List.range_eq_range']

/-- A line's bits read back where they were stored (43_sampler.md R77). -/
theorem read_writeLineBits (m : Memory 1) (n j : Nat) (bits : List Bit) (hm : Memory.wf m = true)
    (hj : j < bits.length) : Memory.read (writeLineBits m n bits) (99 * n + j) = bits[j] :=
  Memory.read_writeRange_inside bits m (99 * n) j hm hj

/-- Bits outside the line's range are as before (43_sampler.md R77). -/
theorem read_writeLineBits_other (m : Memory 1) (n a : Nat) (bits : List Bit)
    (ha : a < 99 * n ∨ 99 * n + bits.length ≤ a) :
    Memory.read (writeLineBits m n bits) a = Memory.read m a :=
  Memory.read_writeRange_other bits m (99 * n) a ha

end Sys2Proof.Machine
end

