-- ==== Sys2Proof/Laws/State.lean ====
section
/-! SUPPORT. One lemma per field per update of the state, each true by definition. -/

namespace Sys2Proof.Machine

variable (s : State)

/-! ## raise -/

@[simp] theorem raise_params (k : Condition) : (raise k s).params = s.params := rfl
@[simp] theorem raise_cmd (k : Condition) : (raise k s).cmd = s.cmd := rfl
@[simp] theorem raise_status (k : Condition) : (raise k s).status = putFlag s.status (conditionCode k) true := rfl
@[simp] theorem raise_lfsr (k : Condition) : (raise k s).lfsr = s.lfsr := rfl
@[simp] theorem raise_offset (k : Condition) : (raise k s).offset = s.offset := rfl
@[simp] theorem raise_result (k : Condition) : (raise k s).result = s.result := rfl
@[simp] theorem raise_width (k : Condition) : (raise k s).width = s.width := rfl
@[simp] theorem raise_height (k : Condition) : (raise k s).height = s.height := rfl
@[simp] theorem raise_eng (k : Condition) : (raise k s).eng = s.eng := rfl
@[simp] theorem raise_bitstream (k : Condition) : (raise k s).bitstream = s.bitstream := rfl
@[simp] theorem raise_lineOfs (k : Condition) : (raise k s).lineOfs = s.lineOfs := rfl
@[simp] theorem raise_lineFlags (k : Condition) : (raise k s).lineFlags = s.lineFlags := rfl
@[simp] theorem raise_pkt (k : Condition) : (raise k s).pkt = s.pkt := rfl
@[simp] theorem raise_raster (k : Condition) : (raise k s).raster = s.raster := rfl
@[simp] theorem raise_inReset (k : Condition) : (raise k s).inReset = s.inReset := rfl
@[simp] theorem raise_pending (k : Condition) : (raise k s).pending = s.pending := rfl
@[simp] theorem raise_reads (k : Condition) : (raise k s).reads = s.reads := rfl
@[simp] theorem raise_draws (k : Condition) : (raise k s).draws = s.draws := rfl
@[simp] theorem raise_disturbed (k : Condition) : (raise k s).disturbed = s.disturbed := rfl
@[simp] theorem raise_unpolled (k : Condition) : (raise k s).unpolled = s.unpolled := rfl

/-! ## takeWord -/

@[simp] theorem takeWord_params (c : Word) : (takeWord c s).params = s.params := rfl
@[simp] theorem takeWord_cmd (c : Word) : (takeWord c s).cmd = c := rfl
@[simp] theorem takeWord_status (c : Word) : (takeWord c s).status = clearFlags s.status := rfl
@[simp] theorem takeWord_lfsr (c : Word) : (takeWord c s).lfsr = s.lfsr := rfl
@[simp] theorem takeWord_offset (c : Word) : (takeWord c s).offset = s.offset := rfl
@[simp] theorem takeWord_result (c : Word) : (takeWord c s).result = s.result := rfl
@[simp] theorem takeWord_width (c : Word) : (takeWord c s).width = s.width := rfl
@[simp] theorem takeWord_height (c : Word) : (takeWord c s).height = s.height := rfl
@[simp] theorem takeWord_eng (c : Word) : (takeWord c s).eng = s.eng := rfl
@[simp] theorem takeWord_bitstream (c : Word) : (takeWord c s).bitstream = s.bitstream := rfl
@[simp] theorem takeWord_lineOfs (c : Word) : (takeWord c s).lineOfs = s.lineOfs := rfl
@[simp] theorem takeWord_lineFlags (c : Word) : (takeWord c s).lineFlags = s.lineFlags := rfl
@[simp] theorem takeWord_pkt (c : Word) : (takeWord c s).pkt = s.pkt := rfl
@[simp] theorem takeWord_raster (c : Word) : (takeWord c s).raster = s.raster := rfl
@[simp] theorem takeWord_inReset (c : Word) : (takeWord c s).inReset = s.inReset := rfl
@[simp] theorem takeWord_pending (c : Word) : (takeWord c s).pending = s.pending := rfl
@[simp] theorem takeWord_reads (c : Word) : (takeWord c s).reads = s.reads := rfl
@[simp] theorem takeWord_draws (c : Word) : (takeWord c s).draws = s.draws := rfl
@[simp] theorem takeWord_disturbed (c : Word) : (takeWord c s).disturbed = s.disturbed := rfl
@[simp] theorem takeWord_unpolled (c : Word) : (takeWord c s).unpolled = s.unpolled := rfl

/-! ## launch -/

@[simp] theorem launch_params (c : Word) : (launch c s).params = s.params := rfl
@[simp] theorem launch_cmd (c : Word) : (launch c s).cmd = s.cmd := rfl
@[simp] theorem launch_status (c : Word) : (launch c s).status = putFlag s.status busyBit true := rfl
@[simp] theorem launch_lfsr (c : Word) : (launch c s).lfsr = s.lfsr := rfl
@[simp] theorem launch_offset (c : Word) : (launch c s).offset = s.offset := rfl
@[simp] theorem launch_result (c : Word) : (launch c s).result = s.result := rfl
@[simp] theorem launch_width (c : Word) : (launch c s).width = s.width := rfl
@[simp] theorem launch_height (c : Word) : (launch c s).height = s.height := rfl
@[simp] theorem launch_eng (c : Word) : (launch c s).eng = .busy c := rfl
@[simp] theorem launch_bitstream (c : Word) : (launch c s).bitstream = s.bitstream := rfl
@[simp] theorem launch_lineOfs (c : Word) : (launch c s).lineOfs = s.lineOfs := rfl
@[simp] theorem launch_lineFlags (c : Word) : (launch c s).lineFlags = s.lineFlags := rfl
@[simp] theorem launch_pkt (c : Word) : (launch c s).pkt = s.pkt := rfl
@[simp] theorem launch_raster (c : Word) : (launch c s).raster = s.raster := rfl
@[simp] theorem launch_inReset (c : Word) : (launch c s).inReset = s.inReset := rfl
@[simp] theorem launch_pending (c : Word) : (launch c s).pending = s.pending := rfl
@[simp] theorem launch_reads (c : Word) : (launch c s).reads = s.reads := rfl
@[simp] theorem launch_draws (c : Word) : (launch c s).draws = s.draws := rfl
@[simp] theorem launch_disturbed (c : Word) : (launch c s).disturbed = false := rfl
@[simp] theorem launch_unpolled (c : Word) : (launch c s).unpolled = true := rfl

/-! ## refuseIllegal -/

@[simp] theorem refuseIllegal_params : (refuseIllegal s).params = s.params := rfl
@[simp] theorem refuseIllegal_cmd : (refuseIllegal s).cmd = s.cmd := rfl
@[simp] theorem refuseIllegal_status :
    (refuseIllegal s).status =
      putFlag (putFlag s.status errIllegalBit true) doneBit true := rfl
@[simp] theorem refuseIllegal_lfsr : (refuseIllegal s).lfsr = s.lfsr := rfl
@[simp] theorem refuseIllegal_offset : (refuseIllegal s).offset = s.offset := rfl
@[simp] theorem refuseIllegal_result : (refuseIllegal s).result = s.result := rfl
@[simp] theorem refuseIllegal_width : (refuseIllegal s).width = s.width := rfl
@[simp] theorem refuseIllegal_height : (refuseIllegal s).height = s.height := rfl
@[simp] theorem refuseIllegal_eng : (refuseIllegal s).eng = s.eng := rfl
@[simp] theorem refuseIllegal_bitstream : (refuseIllegal s).bitstream = s.bitstream := rfl
@[simp] theorem refuseIllegal_lineOfs : (refuseIllegal s).lineOfs = s.lineOfs := rfl
@[simp] theorem refuseIllegal_lineFlags : (refuseIllegal s).lineFlags = s.lineFlags := rfl
@[simp] theorem refuseIllegal_pkt : (refuseIllegal s).pkt = s.pkt := rfl
@[simp] theorem refuseIllegal_raster : (refuseIllegal s).raster = s.raster := rfl
@[simp] theorem refuseIllegal_inReset : (refuseIllegal s).inReset = s.inReset := rfl
@[simp] theorem refuseIllegal_pending : (refuseIllegal s).pending = s.pending := rfl
@[simp] theorem refuseIllegal_reads : (refuseIllegal s).reads = s.reads := rfl
@[simp] theorem refuseIllegal_draws : (refuseIllegal s).draws = s.draws := rfl
@[simp] theorem refuseIllegal_disturbed : (refuseIllegal s).disturbed = s.disturbed := rfl
@[simp] theorem refuseIllegal_unpolled : (refuseIllegal s).unpolled = s.unpolled := rfl

/-! ## complete -/

@[simp] theorem complete_params : (complete s).params = s.params := rfl
@[simp] theorem complete_cmd : (complete s).cmd = s.cmd := rfl
@[simp] theorem complete_status : (complete s).status = putFlag (putFlag s.status busyBit false) doneBit true := rfl
@[simp] theorem complete_lfsr : (complete s).lfsr = s.lfsr := rfl
@[simp] theorem complete_offset : (complete s).offset = s.offset := rfl
@[simp] theorem complete_result : (complete s).result = s.result := rfl
@[simp] theorem complete_width : (complete s).width = s.width := rfl
@[simp] theorem complete_height : (complete s).height = s.height := rfl
@[simp] theorem complete_eng : (complete s).eng = .idle := rfl
@[simp] theorem complete_bitstream : (complete s).bitstream = s.bitstream := rfl
@[simp] theorem complete_lineOfs : (complete s).lineOfs = s.lineOfs := rfl
@[simp] theorem complete_lineFlags : (complete s).lineFlags = s.lineFlags := rfl
@[simp] theorem complete_pkt : (complete s).pkt = s.pkt := rfl
@[simp] theorem complete_raster : (complete s).raster = s.raster := rfl
@[simp] theorem complete_inReset : (complete s).inReset = s.inReset := rfl
@[simp] theorem complete_pending : (complete s).pending = s.pending := rfl
@[simp] theorem complete_reads : (complete s).reads = s.reads := rfl
@[simp] theorem complete_draws : (complete s).draws = s.draws := rfl
@[simp] theorem complete_disturbed : (complete s).disturbed = false := rfl
@[simp] theorem complete_unpolled : (complete s).unpolled = s.unpolled := rfl

/-! ## abandonIllegal -/

@[simp] theorem abandonIllegal_params : (abandonIllegal s).params = s.params := rfl
@[simp] theorem abandonIllegal_cmd : (abandonIllegal s).cmd = s.cmd := rfl
@[simp] theorem abandonIllegal_status :
    (abandonIllegal s).status =
      putFlag (putFlag (putFlag s.status errIllegalBit true) busyBit false) doneBit true := rfl
@[simp] theorem abandonIllegal_lfsr : (abandonIllegal s).lfsr = s.lfsr := rfl
@[simp] theorem abandonIllegal_offset : (abandonIllegal s).offset = s.offset := rfl
@[simp] theorem abandonIllegal_result : (abandonIllegal s).result = s.result := rfl
@[simp] theorem abandonIllegal_width : (abandonIllegal s).width = s.width := rfl
@[simp] theorem abandonIllegal_height : (abandonIllegal s).height = s.height := rfl
@[simp] theorem abandonIllegal_eng : (abandonIllegal s).eng = .idle := rfl
@[simp] theorem abandonIllegal_bitstream : (abandonIllegal s).bitstream = s.bitstream := rfl
@[simp] theorem abandonIllegal_lineOfs : (abandonIllegal s).lineOfs = s.lineOfs := rfl
@[simp] theorem abandonIllegal_lineFlags : (abandonIllegal s).lineFlags = s.lineFlags := rfl
@[simp] theorem abandonIllegal_pkt : (abandonIllegal s).pkt = s.pkt := rfl
@[simp] theorem abandonIllegal_raster : (abandonIllegal s).raster = s.raster := rfl
@[simp] theorem abandonIllegal_inReset : (abandonIllegal s).inReset = s.inReset := rfl
@[simp] theorem abandonIllegal_pending : (abandonIllegal s).pending = s.pending := rfl
@[simp] theorem abandonIllegal_reads : (abandonIllegal s).reads = s.reads := rfl
@[simp] theorem abandonIllegal_draws : (abandonIllegal s).draws = s.draws := rfl
@[simp] theorem abandonIllegal_disturbed : (abandonIllegal s).disturbed = false := rfl
@[simp] theorem abandonIllegal_unpolled : (abandonIllegal s).unpolled = s.unpolled := rfl

/-! ## record -/

@[simp] theorem record_params (v : Word) : (record v s).params = s.params := rfl
@[simp] theorem record_cmd (v : Word) : (record v s).cmd = s.cmd := rfl
@[simp] theorem record_status (v : Word) : (record v s).status = s.status := rfl
@[simp] theorem record_lfsr (v : Word) : (record v s).lfsr = s.lfsr := rfl
@[simp] theorem record_offset (v : Word) : (record v s).offset = s.offset := rfl
@[simp] theorem record_result (v : Word) : (record v s).result = s.result := rfl
@[simp] theorem record_width (v : Word) : (record v s).width = s.width := rfl
@[simp] theorem record_height (v : Word) : (record v s).height = s.height := rfl
@[simp] theorem record_eng (v : Word) : (record v s).eng = s.eng := rfl
@[simp] theorem record_bitstream (v : Word) : (record v s).bitstream = s.bitstream := rfl
@[simp] theorem record_lineOfs (v : Word) : (record v s).lineOfs = s.lineOfs := rfl
@[simp] theorem record_lineFlags (v : Word) : (record v s).lineFlags = s.lineFlags := rfl
@[simp] theorem record_pkt (v : Word) : (record v s).pkt = s.pkt := rfl
@[simp] theorem record_raster (v : Word) : (record v s).raster = s.raster := rfl
@[simp] theorem record_inReset (v : Word) : (record v s).inReset = s.inReset := rfl
@[simp] theorem record_pending (v : Word) : (record v s).pending = s.pending := rfl
@[simp] theorem record_reads (v : Word) : (record v s).reads = v :: s.reads := rfl
@[simp] theorem record_draws (v : Word) : (record v s).draws = s.draws := rfl
@[simp] theorem record_disturbed (v : Word) : (record v s).disturbed = s.disturbed := rfl
@[simp] theorem record_unpolled (v : Word) : (record v s).unpolled = s.unpolled := rfl

/-! ## stepScrambler -/

@[simp] theorem stepScrambler_params : (stepScrambler s).params = s.params := rfl
@[simp] theorem stepScrambler_cmd : (stepScrambler s).cmd = s.cmd := rfl
@[simp] theorem stepScrambler_status : (stepScrambler s).status = s.status := rfl
@[simp] theorem stepScrambler_lfsr : (stepScrambler s).lfsr = (advance s.lfsr).1 := rfl
@[simp] theorem stepScrambler_offset : (stepScrambler s).offset = s.offset := rfl
@[simp] theorem stepScrambler_result : (stepScrambler s).result = (advance s.lfsr).2.setWidth 32 := rfl
@[simp] theorem stepScrambler_width : (stepScrambler s).width = s.width := rfl
@[simp] theorem stepScrambler_height : (stepScrambler s).height = s.height := rfl
@[simp] theorem stepScrambler_eng : (stepScrambler s).eng = s.eng := rfl
@[simp] theorem stepScrambler_bitstream : (stepScrambler s).bitstream = s.bitstream := rfl
@[simp] theorem stepScrambler_lineOfs : (stepScrambler s).lineOfs = s.lineOfs := rfl
@[simp] theorem stepScrambler_lineFlags : (stepScrambler s).lineFlags = s.lineFlags := rfl
@[simp] theorem stepScrambler_pkt : (stepScrambler s).pkt = s.pkt := rfl
@[simp] theorem stepScrambler_raster : (stepScrambler s).raster = s.raster := rfl
@[simp] theorem stepScrambler_inReset : (stepScrambler s).inReset = s.inReset := rfl
@[simp] theorem stepScrambler_pending : (stepScrambler s).pending = s.pending := rfl
@[simp] theorem stepScrambler_reads : (stepScrambler s).reads = s.reads := rfl
@[simp] theorem stepScrambler_draws : (stepScrambler s).draws = s.draws := rfl
@[simp] theorem stepScrambler_disturbed : (stepScrambler s).disturbed = s.disturbed := rfl
@[simp] theorem stepScrambler_unpolled : (stepScrambler s).unpolled = s.unpolled := rfl

/-! ## loadSeed -/

@[simp] theorem loadSeed_params (n : Nat) : (loadSeed n s).params = s.params := rfl
@[simp] theorem loadSeed_cmd (n : Nat) : (loadSeed n s).cmd = s.cmd := rfl
@[simp] theorem loadSeed_status (n : Nat) : (loadSeed n s).status = s.status := rfl
@[simp] theorem loadSeed_lfsr (n : Nat) : (loadSeed n s).lfsr = seed s.params n := rfl
@[simp] theorem loadSeed_offset (n : Nat) : (loadSeed n s).offset = s.offset := rfl
@[simp] theorem loadSeed_result (n : Nat) : (loadSeed n s).result = (seed s.params n).setWidth 32 := rfl
@[simp] theorem loadSeed_width (n : Nat) : (loadSeed n s).width = s.width := rfl
@[simp] theorem loadSeed_height (n : Nat) : (loadSeed n s).height = s.height := rfl
@[simp] theorem loadSeed_eng (n : Nat) : (loadSeed n s).eng = s.eng := rfl
@[simp] theorem loadSeed_bitstream (n : Nat) : (loadSeed n s).bitstream = s.bitstream := rfl
@[simp] theorem loadSeed_lineOfs (n : Nat) : (loadSeed n s).lineOfs = s.lineOfs := rfl
@[simp] theorem loadSeed_lineFlags (n : Nat) : (loadSeed n s).lineFlags = s.lineFlags := rfl
@[simp] theorem loadSeed_pkt (n : Nat) : (loadSeed n s).pkt = s.pkt := rfl
@[simp] theorem loadSeed_raster (n : Nat) : (loadSeed n s).raster = s.raster := rfl
@[simp] theorem loadSeed_inReset (n : Nat) : (loadSeed n s).inReset = s.inReset := rfl
@[simp] theorem loadSeed_pending (n : Nat) : (loadSeed n s).pending = s.pending := rfl
@[simp] theorem loadSeed_reads (n : Nat) : (loadSeed n s).reads = s.reads := rfl
@[simp] theorem loadSeed_draws (n : Nat) : (loadSeed n s).draws = s.draws := rfl
@[simp] theorem loadSeed_disturbed (n : Nat) : (loadSeed n s).disturbed = s.disturbed := rfl
@[simp] theorem loadSeed_unpolled (n : Nat) : (loadSeed n s).unpolled = s.unpolled := rfl

/-! ## putSyncOutputs -/

@[simp] theorem putSyncOutputs_params (o : SyncOutputs) : (putSyncOutputs o s).params = s.params := rfl
@[simp] theorem putSyncOutputs_cmd (o : SyncOutputs) : (putSyncOutputs o s).cmd = s.cmd := rfl
@[simp] theorem putSyncOutputs_status (o : SyncOutputs) :
    (putSyncOutputs o s).status =
      putSyncFlags s.status o.flags := rfl
@[simp] theorem putSyncOutputs_lfsr (o : SyncOutputs) : (putSyncOutputs o s).lfsr = s.lfsr := rfl
@[simp] theorem putSyncOutputs_offset (o : SyncOutputs) : (putSyncOutputs o s).offset = o.offset := rfl
@[simp] theorem putSyncOutputs_result (o : SyncOutputs) : (putSyncOutputs o s).result = o.result := rfl
@[simp] theorem putSyncOutputs_width (o : SyncOutputs) : (putSyncOutputs o s).width = s.width := rfl
@[simp] theorem putSyncOutputs_height (o : SyncOutputs) : (putSyncOutputs o s).height = s.height := rfl
@[simp] theorem putSyncOutputs_eng (o : SyncOutputs) : (putSyncOutputs o s).eng = s.eng := rfl
@[simp] theorem putSyncOutputs_bitstream (o : SyncOutputs) : (putSyncOutputs o s).bitstream = s.bitstream := rfl
@[simp] theorem putSyncOutputs_lineOfs (o : SyncOutputs) : (putSyncOutputs o s).lineOfs = s.lineOfs := rfl
@[simp] theorem putSyncOutputs_lineFlags (o : SyncOutputs) : (putSyncOutputs o s).lineFlags = s.lineFlags := rfl
@[simp] theorem putSyncOutputs_pkt (o : SyncOutputs) : (putSyncOutputs o s).pkt = s.pkt := rfl
@[simp] theorem putSyncOutputs_raster (o : SyncOutputs) : (putSyncOutputs o s).raster = s.raster := rfl
@[simp] theorem putSyncOutputs_inReset (o : SyncOutputs) : (putSyncOutputs o s).inReset = s.inReset := rfl
@[simp] theorem putSyncOutputs_pending (o : SyncOutputs) : (putSyncOutputs o s).pending = s.pending := rfl
@[simp] theorem putSyncOutputs_reads (o : SyncOutputs) : (putSyncOutputs o s).reads = s.reads := rfl
@[simp] theorem putSyncOutputs_draws (o : SyncOutputs) : (putSyncOutputs o s).draws = s.draws := rfl
@[simp] theorem putSyncOutputs_disturbed (o : SyncOutputs) : (putSyncOutputs o s).disturbed = s.disturbed := rfl
@[simp] theorem putSyncOutputs_unpolled (o : SyncOutputs) : (putSyncOutputs o s).unpolled = s.unpolled := rfl

/-! ## putSampleOutputs -/

@[simp] theorem putSampleOutputs_params (n : Nat) (o : SampleOutputs) :
    (putSampleOutputs n o s).params =
      s.params := rfl
@[simp] theorem putSampleOutputs_cmd (n : Nat) (o : SampleOutputs) : (putSampleOutputs n o s).cmd = s.cmd := rfl
@[simp] theorem putSampleOutputs_status (n : Nat) (o : SampleOutputs) :
    (putSampleOutputs n o s).status =
      putFlag s.status oorBit o.oor := rfl
@[simp] theorem putSampleOutputs_lfsr (n : Nat) (o : SampleOutputs) : (putSampleOutputs n o s).lfsr = o.lfsr := rfl
@[simp] theorem putSampleOutputs_offset (n : Nat) (o : SampleOutputs) :
    (putSampleOutputs n o s).offset =
      s.offset := rfl
@[simp] theorem putSampleOutputs_result (n : Nat) (o : SampleOutputs) :
    (putSampleOutputs n o s).result =
      o.result := rfl
@[simp] theorem putSampleOutputs_width (n : Nat) (o : SampleOutputs) : (putSampleOutputs n o s).width = s.width := rfl
@[simp] theorem putSampleOutputs_height (n : Nat) (o : SampleOutputs) :
    (putSampleOutputs n o s).height =
      s.height := rfl
@[simp] theorem putSampleOutputs_eng (n : Nat) (o : SampleOutputs) : (putSampleOutputs n o s).eng = s.eng := rfl
@[simp] theorem putSampleOutputs_bitstream (n : Nat) (o : SampleOutputs) :
    (putSampleOutputs n o s).bitstream =
      writeLineBits s.bitstream n o.bits := rfl
@[simp] theorem putSampleOutputs_lineOfs (n : Nat) (o : SampleOutputs) :
    (putSampleOutputs n o s).lineOfs =
      s.lineOfs := rfl
@[simp] theorem putSampleOutputs_lineFlags (n : Nat) (o : SampleOutputs) :
    (putSampleOutputs n o s).lineFlags =
      s.lineFlags := rfl
@[simp] theorem putSampleOutputs_pkt (n : Nat) (o : SampleOutputs) : (putSampleOutputs n o s).pkt = s.pkt := rfl
@[simp] theorem putSampleOutputs_raster (n : Nat) (o : SampleOutputs) :
    (putSampleOutputs n o s).raster =
      s.raster := rfl
@[simp] theorem putSampleOutputs_inReset (n : Nat) (o : SampleOutputs) :
    (putSampleOutputs n o s).inReset =
      s.inReset := rfl
@[simp] theorem putSampleOutputs_pending (n : Nat) (o : SampleOutputs) :
    (putSampleOutputs n o s).pending =
      s.pending := rfl
@[simp] theorem putSampleOutputs_reads (n : Nat) (o : SampleOutputs) : (putSampleOutputs n o s).reads = s.reads := rfl
@[simp] theorem putSampleOutputs_draws (n : Nat) (o : SampleOutputs) : (putSampleOutputs n o s).draws = s.draws := rfl
@[simp] theorem putSampleOutputs_disturbed (n : Nat) (o : SampleOutputs) :
    (putSampleOutputs n o s).disturbed =
      s.disturbed := rfl
@[simp] theorem putSampleOutputs_unpolled (n : Nat) (o : SampleOutputs) :
    (putSampleOutputs n o s).unpolled =
      s.unpolled := rfl

/-! ## putFrameOutputs -/

@[simp] theorem putFrameOutputs_params (f : FrameOutputs) : (putFrameOutputs f s).params = s.params := rfl
@[simp] theorem putFrameOutputs_cmd (f : FrameOutputs) : (putFrameOutputs f s).cmd = s.cmd := rfl
@[simp] theorem putFrameOutputs_status (f : FrameOutputs) :
    (putFrameOutputs f s).status =
      putFrameFlags s.status (decide (0 < f.fails)) f.anyOor := rfl
@[simp] theorem putFrameOutputs_lfsr (f : FrameOutputs) : (putFrameOutputs f s).lfsr = s.lfsr := rfl
@[simp] theorem putFrameOutputs_offset (f : FrameOutputs) : (putFrameOutputs f s).offset = s.offset := rfl
@[simp] theorem putFrameOutputs_result (f : FrameOutputs) : (putFrameOutputs f s).result = zext32 f.fails := rfl
@[simp] theorem putFrameOutputs_width (f : FrameOutputs) : (putFrameOutputs f s).width = s.width := rfl
@[simp] theorem putFrameOutputs_height (f : FrameOutputs) : (putFrameOutputs f s).height = s.height := rfl
@[simp] theorem putFrameOutputs_eng (f : FrameOutputs) : (putFrameOutputs f s).eng = s.eng := rfl
@[simp] theorem putFrameOutputs_bitstream (f : FrameOutputs) : (putFrameOutputs f s).bitstream = f.bitstream := rfl
@[simp] theorem putFrameOutputs_lineOfs (f : FrameOutputs) : (putFrameOutputs f s).lineOfs = f.lineOfs := rfl
@[simp] theorem putFrameOutputs_lineFlags (f : FrameOutputs) : (putFrameOutputs f s).lineFlags = f.lineFlags := rfl
@[simp] theorem putFrameOutputs_pkt (f : FrameOutputs) : (putFrameOutputs f s).pkt = s.pkt := rfl
@[simp] theorem putFrameOutputs_raster (f : FrameOutputs) : (putFrameOutputs f s).raster = s.raster := rfl
@[simp] theorem putFrameOutputs_inReset (f : FrameOutputs) : (putFrameOutputs f s).inReset = s.inReset := rfl
@[simp] theorem putFrameOutputs_pending (f : FrameOutputs) : (putFrameOutputs f s).pending = s.pending := rfl
@[simp] theorem putFrameOutputs_reads (f : FrameOutputs) : (putFrameOutputs f s).reads = s.reads := rfl
@[simp] theorem putFrameOutputs_draws (f : FrameOutputs) : (putFrameOutputs f s).draws = s.draws := rfl
@[simp] theorem putFrameOutputs_disturbed (f : FrameOutputs) : (putFrameOutputs f s).disturbed = s.disturbed := rfl
@[simp] theorem putFrameOutputs_unpolled (f : FrameOutputs) : (putFrameOutputs f s).unpolled = s.unpolled := rfl

/-! ## putDrawnFrame -/

@[simp] theorem putDrawnFrame_params : (putDrawnFrame s).params = s.params := rfl
@[simp] theorem putDrawnFrame_cmd : (putDrawnFrame s).cmd = s.cmd := rfl
@[simp] theorem putDrawnFrame_status :
    (putDrawnFrame s).status =
      putFrameFlags s.status ((Config.draw 2 (s.draws + 101 * s.params.l + 1)).getLsbD 0)
        ((Config.draw 2 (s.draws + 101 * s.params.l + 1)).getLsbD 1) := rfl
@[simp] theorem putDrawnFrame_lfsr : (putDrawnFrame s).lfsr = s.lfsr := rfl
@[simp] theorem putDrawnFrame_offset : (putDrawnFrame s).offset = s.offset := rfl
@[simp] theorem putDrawnFrame_result : (putDrawnFrame s).result = Config.draw 32 (s.draws + 101 * s.params.l) := rfl
@[simp] theorem putDrawnFrame_width : (putDrawnFrame s).width = s.width := rfl
@[simp] theorem putDrawnFrame_height : (putDrawnFrame s).height = s.height := rfl
@[simp] theorem putDrawnFrame_eng : (putDrawnFrame s).eng = s.eng := rfl
@[simp] theorem putDrawnFrame_bitstream :
    (putDrawnFrame s).bitstream =
      Memory.writeRange s.bitstream 0 (drawnBits s.draws (99 * s.params.l)) := rfl
@[simp] theorem putDrawnFrame_lineOfs :
    (putDrawnFrame s).lineOfs =
      Memory.writeRange s.lineOfs 0
        ((List.range s.params.l).map fun n => Config.draw 32 (s.draws + 99 * s.params.l + n)) := rfl
@[simp] theorem putDrawnFrame_lineFlags :
    (putDrawnFrame s).lineFlags =
      Memory.writeRange s.lineFlags 0
        ((List.range s.params.l).map fun n => Config.draw 4 (s.draws + 100 * s.params.l + n)) := rfl
@[simp] theorem putDrawnFrame_pkt : (putDrawnFrame s).pkt = s.pkt := rfl
@[simp] theorem putDrawnFrame_raster : (putDrawnFrame s).raster = s.raster := rfl
@[simp] theorem putDrawnFrame_inReset : (putDrawnFrame s).inReset = s.inReset := rfl
@[simp] theorem putDrawnFrame_pending : (putDrawnFrame s).pending = s.pending := rfl
@[simp] theorem putDrawnFrame_reads : (putDrawnFrame s).reads = s.reads := rfl
@[simp] theorem putDrawnFrame_draws : (putDrawnFrame s).draws = s.draws + 101 * s.params.l + 2 := rfl
@[simp] theorem putDrawnFrame_disturbed : (putDrawnFrame s).disturbed = s.disturbed := rfl
@[simp] theorem putDrawnFrame_unpolled : (putDrawnFrame s).unpolled = s.unpolled := rfl

/-! ## refuseFrame -/

@[simp] theorem refuseFrame_params : (refuseFrame s).params = s.params := rfl
@[simp] theorem refuseFrame_cmd : (refuseFrame s).cmd = s.cmd := rfl
@[simp] theorem refuseFrame_status : (refuseFrame s).status = putFlag s.status errMalformedBit true := rfl
@[simp] theorem refuseFrame_lfsr : (refuseFrame s).lfsr = s.lfsr := rfl
@[simp] theorem refuseFrame_offset : (refuseFrame s).offset = s.offset := rfl
@[simp] theorem refuseFrame_result : (refuseFrame s).result = 0#32 := rfl
@[simp] theorem refuseFrame_width : (refuseFrame s).width = s.width := rfl
@[simp] theorem refuseFrame_height : (refuseFrame s).height = s.height := rfl
@[simp] theorem refuseFrame_eng : (refuseFrame s).eng = s.eng := rfl
@[simp] theorem refuseFrame_bitstream : (refuseFrame s).bitstream = s.bitstream := rfl
@[simp] theorem refuseFrame_lineOfs : (refuseFrame s).lineOfs = s.lineOfs := rfl
@[simp] theorem refuseFrame_lineFlags : (refuseFrame s).lineFlags = s.lineFlags := rfl
@[simp] theorem refuseFrame_pkt : (refuseFrame s).pkt = s.pkt := rfl
@[simp] theorem refuseFrame_raster : (refuseFrame s).raster = s.raster := rfl
@[simp] theorem refuseFrame_inReset : (refuseFrame s).inReset = s.inReset := rfl
@[simp] theorem refuseFrame_pending : (refuseFrame s).pending = s.pending := rfl
@[simp] theorem refuseFrame_reads : (refuseFrame s).reads = s.reads := rfl
@[simp] theorem refuseFrame_draws : (refuseFrame s).draws = s.draws := rfl
@[simp] theorem refuseFrame_disturbed : (refuseFrame s).disturbed = s.disturbed := rfl
@[simp] theorem refuseFrame_unpolled : (refuseFrame s).unpolled = s.unpolled := rfl

/-! ## splitPackets -/

@[simp] theorem splitPackets_params : (splitPackets s).params = s.params := rfl
@[simp] theorem splitPackets_cmd : (splitPackets s).cmd = s.cmd := rfl
@[simp] theorem splitPackets_status : (splitPackets s).status = s.status := rfl
@[simp] theorem splitPackets_lfsr : (splitPackets s).lfsr = s.lfsr := rfl
@[simp] theorem splitPackets_offset : (splitPackets s).offset = s.offset := rfl
@[simp] theorem splitPackets_result : (splitPackets s).result = zext32 Config.pktsPerFrame := rfl
@[simp] theorem splitPackets_width : (splitPackets s).width = s.width := rfl
@[simp] theorem splitPackets_height : (splitPackets s).height = s.height := rfl
@[simp] theorem splitPackets_eng : (splitPackets s).eng = s.eng := rfl
@[simp] theorem splitPackets_bitstream : (splitPackets s).bitstream = s.bitstream := rfl
@[simp] theorem splitPackets_lineOfs : (splitPackets s).lineOfs = s.lineOfs := rfl
@[simp] theorem splitPackets_lineFlags : (splitPackets s).lineFlags = s.lineFlags := rfl
@[simp] theorem splitPackets_pkt : (splitPackets s).pkt = splitFrom s.bitstream Config.pktsPerFrame 0 s.pkt := by
  simp only [splitPackets]
@[simp] theorem splitPackets_raster : (splitPackets s).raster = s.raster := rfl
@[simp] theorem splitPackets_inReset : (splitPackets s).inReset = s.inReset := rfl
@[simp] theorem splitPackets_pending : (splitPackets s).pending = s.pending := rfl
@[simp] theorem splitPackets_reads : (splitPackets s).reads = s.reads := rfl
@[simp] theorem splitPackets_draws : (splitPackets s).draws = s.draws := rfl
@[simp] theorem splitPackets_disturbed : (splitPackets s).disturbed = s.disturbed := rfl
@[simp] theorem splitPackets_unpolled : (splitPackets s).unpolled = s.unpolled := rfl

/-! ## spendDraws -/

@[simp] theorem spendDraws_params (k : Nat) : (spendDraws k s).params = s.params := rfl
@[simp] theorem spendDraws_cmd (k : Nat) : (spendDraws k s).cmd = s.cmd := rfl
@[simp] theorem spendDraws_status (k : Nat) : (spendDraws k s).status = s.status := rfl
@[simp] theorem spendDraws_lfsr (k : Nat) : (spendDraws k s).lfsr = s.lfsr := rfl
@[simp] theorem spendDraws_offset (k : Nat) : (spendDraws k s).offset = s.offset := rfl
@[simp] theorem spendDraws_result (k : Nat) : (spendDraws k s).result = s.result := rfl
@[simp] theorem spendDraws_width (k : Nat) : (spendDraws k s).width = s.width := rfl
@[simp] theorem spendDraws_height (k : Nat) : (spendDraws k s).height = s.height := rfl
@[simp] theorem spendDraws_eng (k : Nat) : (spendDraws k s).eng = s.eng := rfl
@[simp] theorem spendDraws_bitstream (k : Nat) : (spendDraws k s).bitstream = s.bitstream := rfl
@[simp] theorem spendDraws_lineOfs (k : Nat) : (spendDraws k s).lineOfs = s.lineOfs := rfl
@[simp] theorem spendDraws_lineFlags (k : Nat) : (spendDraws k s).lineFlags = s.lineFlags := rfl
@[simp] theorem spendDraws_pkt (k : Nat) : (spendDraws k s).pkt = s.pkt := rfl
@[simp] theorem spendDraws_raster (k : Nat) : (spendDraws k s).raster = s.raster := rfl
@[simp] theorem spendDraws_inReset (k : Nat) : (spendDraws k s).inReset = s.inReset := rfl
@[simp] theorem spendDraws_pending (k : Nat) : (spendDraws k s).pending = s.pending := rfl
@[simp] theorem spendDraws_reads (k : Nat) : (spendDraws k s).reads = s.reads := rfl
@[simp] theorem spendDraws_draws (k : Nat) : (spendDraws k s).draws = s.draws + k := rfl
@[simp] theorem spendDraws_disturbed (k : Nat) : (spendDraws k s).disturbed = s.disturbed := rfl
@[simp] theorem spendDraws_unpolled (k : Nat) : (spendDraws k s).unpolled = s.unpolled := rfl

/-! ## putResult -/

@[simp] theorem putResult_params (v : Word) : (putResult v s).params = s.params := rfl
@[simp] theorem putResult_cmd (v : Word) : (putResult v s).cmd = s.cmd := rfl
@[simp] theorem putResult_status (v : Word) : (putResult v s).status = s.status := rfl
@[simp] theorem putResult_lfsr (v : Word) : (putResult v s).lfsr = s.lfsr := rfl
@[simp] theorem putResult_offset (v : Word) : (putResult v s).offset = s.offset := rfl
@[simp] theorem putResult_result (v : Word) : (putResult v s).result = v := rfl
@[simp] theorem putResult_width (v : Word) : (putResult v s).width = s.width := rfl
@[simp] theorem putResult_height (v : Word) : (putResult v s).height = s.height := rfl
@[simp] theorem putResult_eng (v : Word) : (putResult v s).eng = s.eng := rfl
@[simp] theorem putResult_bitstream (v : Word) : (putResult v s).bitstream = s.bitstream := rfl
@[simp] theorem putResult_lineOfs (v : Word) : (putResult v s).lineOfs = s.lineOfs := rfl
@[simp] theorem putResult_lineFlags (v : Word) : (putResult v s).lineFlags = s.lineFlags := rfl
@[simp] theorem putResult_pkt (v : Word) : (putResult v s).pkt = s.pkt := rfl
@[simp] theorem putResult_raster (v : Word) : (putResult v s).raster = s.raster := rfl
@[simp] theorem putResult_inReset (v : Word) : (putResult v s).inReset = s.inReset := rfl
@[simp] theorem putResult_pending (v : Word) : (putResult v s).pending = s.pending := rfl
@[simp] theorem putResult_reads (v : Word) : (putResult v s).reads = s.reads := rfl
@[simp] theorem putResult_draws (v : Word) : (putResult v s).draws = s.draws := rfl
@[simp] theorem putResult_disturbed (v : Word) : (putResult v s).disturbed = s.disturbed := rfl
@[simp] theorem putResult_unpolled (v : Word) : (putResult v s).unpolled = s.unpolled := rfl

/-! ## withPending -/

@[simp] theorem withPending_params (rest : List Event) : (withPending rest s).params = s.params := rfl
@[simp] theorem withPending_cmd (rest : List Event) : (withPending rest s).cmd = s.cmd := rfl
@[simp] theorem withPending_status (rest : List Event) : (withPending rest s).status = s.status := rfl
@[simp] theorem withPending_lfsr (rest : List Event) : (withPending rest s).lfsr = s.lfsr := rfl
@[simp] theorem withPending_offset (rest : List Event) : (withPending rest s).offset = s.offset := rfl
@[simp] theorem withPending_result (rest : List Event) : (withPending rest s).result = s.result := rfl
@[simp] theorem withPending_width (rest : List Event) : (withPending rest s).width = s.width := rfl
@[simp] theorem withPending_height (rest : List Event) : (withPending rest s).height = s.height := rfl
@[simp] theorem withPending_eng (rest : List Event) : (withPending rest s).eng = s.eng := rfl
@[simp] theorem withPending_bitstream (rest : List Event) : (withPending rest s).bitstream = s.bitstream := rfl
@[simp] theorem withPending_lineOfs (rest : List Event) : (withPending rest s).lineOfs = s.lineOfs := rfl
@[simp] theorem withPending_lineFlags (rest : List Event) : (withPending rest s).lineFlags = s.lineFlags := rfl
@[simp] theorem withPending_pkt (rest : List Event) : (withPending rest s).pkt = s.pkt := rfl
@[simp] theorem withPending_raster (rest : List Event) : (withPending rest s).raster = s.raster := rfl
@[simp] theorem withPending_inReset (rest : List Event) : (withPending rest s).inReset = s.inReset := rfl
@[simp] theorem withPending_pending (rest : List Event) : (withPending rest s).pending = rest := rfl
@[simp] theorem withPending_reads (rest : List Event) : (withPending rest s).reads = s.reads := rfl
@[simp] theorem withPending_draws (rest : List Event) : (withPending rest s).draws = s.draws := rfl
@[simp] theorem withPending_disturbed (rest : List Event) : (withPending rest s).disturbed = s.disturbed := rfl
@[simp] theorem withPending_unpolled (rest : List Event) : (withPending rest s).unpolled = s.unpolled := rfl

/-! ## resetBlock -/

@[simp] theorem resetBlock_params : (resetBlock s).params = s.params := rfl
@[simp] theorem resetBlock_cmd : (resetBlock s).cmd = 0#32 := rfl
@[simp] theorem resetBlock_status : (resetBlock s).status = 0#32 := rfl
@[simp] theorem resetBlock_lfsr : (resetBlock s).lfsr = s.params.seed0 := rfl
@[simp] theorem resetBlock_offset : (resetBlock s).offset = 0#32 := rfl
@[simp] theorem resetBlock_result : (resetBlock s).result = 0#32 := rfl
@[simp] theorem resetBlock_width : (resetBlock s).width = 0#16 := rfl
@[simp] theorem resetBlock_height : (resetBlock s).height = 0#16 := rfl
@[simp] theorem resetBlock_eng : (resetBlock s).eng = .idle := rfl
@[simp] theorem resetBlock_bitstream : (resetBlock s).bitstream = [] := rfl
@[simp] theorem resetBlock_lineOfs : (resetBlock s).lineOfs = [] := rfl
@[simp] theorem resetBlock_lineFlags : (resetBlock s).lineFlags = [] := rfl
@[simp] theorem resetBlock_pkt : (resetBlock s).pkt = [] := rfl
@[simp] theorem resetBlock_raster : (resetBlock s).raster = s.raster := rfl
@[simp] theorem resetBlock_inReset : (resetBlock s).inReset = s.inReset := rfl
@[simp] theorem resetBlock_pending : (resetBlock s).pending = s.pending := rfl
@[simp] theorem resetBlock_reads : (resetBlock s).reads = s.reads := rfl
@[simp] theorem resetBlock_draws : (resetBlock s).draws = s.draws := rfl
@[simp] theorem resetBlock_disturbed : (resetBlock s).disturbed = false := rfl
@[simp] theorem resetBlock_unpolled : (resetBlock s).unpolled = false := rfl

/-! ## assertReset -/

@[simp] theorem assertReset_params : (assertReset s).params = s.params := rfl
@[simp] theorem assertReset_cmd : (assertReset s).cmd = 0#32 := rfl
@[simp] theorem assertReset_status : (assertReset s).status = 0#32 := rfl
@[simp] theorem assertReset_lfsr : (assertReset s).lfsr = s.params.seed0 := rfl
@[simp] theorem assertReset_offset : (assertReset s).offset = 0#32 := rfl
@[simp] theorem assertReset_result : (assertReset s).result = 0#32 := rfl
@[simp] theorem assertReset_width : (assertReset s).width = 0#16 := rfl
@[simp] theorem assertReset_height : (assertReset s).height = 0#16 := rfl
@[simp] theorem assertReset_eng : (assertReset s).eng = .idle := rfl
@[simp] theorem assertReset_bitstream : (assertReset s).bitstream = [] := rfl
@[simp] theorem assertReset_lineOfs : (assertReset s).lineOfs = [] := rfl
@[simp] theorem assertReset_lineFlags : (assertReset s).lineFlags = [] := rfl
@[simp] theorem assertReset_pkt : (assertReset s).pkt = [] := rfl
@[simp] theorem assertReset_raster : (assertReset s).raster = s.raster := rfl
@[simp] theorem assertReset_inReset : (assertReset s).inReset = true := rfl
@[simp] theorem assertReset_pending : (assertReset s).pending = s.pending := rfl
@[simp] theorem assertReset_reads : (assertReset s).reads = s.reads := rfl
@[simp] theorem assertReset_draws : (assertReset s).draws = s.draws := rfl
@[simp] theorem assertReset_disturbed : (assertReset s).disturbed = false := rfl
@[simp] theorem assertReset_unpolled : (assertReset s).unpolled = false := rfl

/-! ## releaseReset -/

@[simp] theorem releaseReset_params : (releaseReset s).params = s.params := rfl
@[simp] theorem releaseReset_cmd : (releaseReset s).cmd = 0#32 := rfl
@[simp] theorem releaseReset_status : (releaseReset s).status = 0#32 := rfl
@[simp] theorem releaseReset_lfsr : (releaseReset s).lfsr = s.params.seed0 := rfl
@[simp] theorem releaseReset_offset : (releaseReset s).offset = 0#32 := rfl
@[simp] theorem releaseReset_result : (releaseReset s).result = 0#32 := rfl
@[simp] theorem releaseReset_width : (releaseReset s).width = 0#16 := rfl
@[simp] theorem releaseReset_height : (releaseReset s).height = 0#16 := rfl
@[simp] theorem releaseReset_eng : (releaseReset s).eng = .idle := rfl
@[simp] theorem releaseReset_bitstream : (releaseReset s).bitstream = [] := rfl
@[simp] theorem releaseReset_lineOfs : (releaseReset s).lineOfs = [] := rfl
@[simp] theorem releaseReset_lineFlags : (releaseReset s).lineFlags = [] := rfl
@[simp] theorem releaseReset_pkt : (releaseReset s).pkt = [] := rfl
@[simp] theorem releaseReset_raster : (releaseReset s).raster = s.raster := rfl
@[simp] theorem releaseReset_inReset : (releaseReset s).inReset = false := rfl
@[simp] theorem releaseReset_pending : (releaseReset s).pending = s.pending := rfl
@[simp] theorem releaseReset_reads : (releaseReset s).reads = s.reads := rfl
@[simp] theorem releaseReset_draws : (releaseReset s).draws = s.draws := rfl
@[simp] theorem releaseReset_disturbed : (releaseReset s).disturbed = false := rfl
@[simp] theorem releaseReset_unpolled : (releaseReset s).unpolled = false := rfl

/-! ## placeInFlight -/

@[simp] theorem placeInFlight_params (c : Word) : (placeInFlight c s).params = s.params := rfl
@[simp] theorem placeInFlight_cmd (c : Word) : (placeInFlight c s).cmd = c := rfl
@[simp] theorem placeInFlight_status (c : Word) :
    (placeInFlight c s).status =
      putFlag (clearFlags s.status) busyBit true := rfl
@[simp] theorem placeInFlight_lfsr (c : Word) : (placeInFlight c s).lfsr = s.lfsr := rfl
@[simp] theorem placeInFlight_offset (c : Word) : (placeInFlight c s).offset = s.offset := rfl
@[simp] theorem placeInFlight_result (c : Word) : (placeInFlight c s).result = s.result := rfl
@[simp] theorem placeInFlight_width (c : Word) : (placeInFlight c s).width = s.width := rfl
@[simp] theorem placeInFlight_height (c : Word) : (placeInFlight c s).height = s.height := rfl
@[simp] theorem placeInFlight_eng (c : Word) : (placeInFlight c s).eng = .busy c := rfl
@[simp] theorem placeInFlight_bitstream (c : Word) : (placeInFlight c s).bitstream = s.bitstream := rfl
@[simp] theorem placeInFlight_lineOfs (c : Word) : (placeInFlight c s).lineOfs = s.lineOfs := rfl
@[simp] theorem placeInFlight_lineFlags (c : Word) : (placeInFlight c s).lineFlags = s.lineFlags := rfl
@[simp] theorem placeInFlight_pkt (c : Word) : (placeInFlight c s).pkt = s.pkt := rfl
@[simp] theorem placeInFlight_raster (c : Word) : (placeInFlight c s).raster = s.raster := rfl
@[simp] theorem placeInFlight_inReset (c : Word) : (placeInFlight c s).inReset = false := rfl
@[simp] theorem placeInFlight_pending (c : Word) : (placeInFlight c s).pending = engineFirst s.pending := rfl
@[simp] theorem placeInFlight_reads (c : Word) : (placeInFlight c s).reads = s.reads := rfl
@[simp] theorem placeInFlight_draws (c : Word) : (placeInFlight c s).draws = s.draws := rfl
@[simp] theorem placeInFlight_disturbed (c : Word) : (placeInFlight c s).disturbed = false := rfl
@[simp] theorem placeInFlight_unpolled (c : Word) : (placeInFlight c s).unpolled = true := rfl

end Sys2Proof.Machine
end

