-- ==== Sys2Proof/Laws/Frame.lean ====
section
/-! SUPPORT. What DECODE_FRAME's loop leaves in each line (44_frame.md R86), said once. -/

namespace Sys2Proof.Machine

/-- The 99 bits of line `n`. -/
def lineBitsOf (s : State) (n : Nat) : List Bit :=
  if n < s.params.z then List.replicate 99 0#1
  else (sampleLine s n (findSync s n).ofs (seed s.params n)).bits

/-- The `LINE_OFS` word of line `n`. -/
def lineOfsOf (s : State) (n : Nat) : Word := if n < s.params.z then 0#32 else sext32 (findSync s n).ofs

/-- A data line had an out-of-range position. -/
def lineOorOf (s : State) (n : Nat) : Bool :=
  !decide (n < s.params.z) &&
    decide (0 < (findSync s n).oor + (sampleLine s n (findSync s n).ofs (seed s.params n)).oor)

/-- The `LINE_FLAGS` field of line `n`. -/
def lineFieldOf (s : State) (n : Nat) : BitVec 4 :=
  if n < s.params.z then lineFlagsOf true false false false
  else lineFlagsOf false (lineOorOf s n) (findSync s n).pat (findSync s n).found

/-- Line `n` is a data line without a match. -/
def lineFailed (s : State) (n : Nat) : Bool := decide (s.params.z ≤ n) && !(findSync s n).found

@[simp] theorem lineBitsOf_length (s : State) (n : Nat) : (lineBitsOf s n).length = 99 := by
  unfold lineBitsOf
  split <;> simp

/-- One line of the frame writes its bits, its word, its field, and counts. -/
theorem frameLine_eq (s : State) (n : Nat) (f : FrameOutputs) :
    frameLine s n f =
      { bitstream := writeLineBits f.bitstream n (lineBitsOf s n)
        lineOfs := Memory.write f.lineOfs n (lineOfsOf s n)
        lineFlags := Memory.write f.lineFlags n (lineFieldOf s n)
        fails := f.fails + (if lineFailed s n then 1 else 0)
        anyOor := f.anyOor || lineOorOf s n } := by
  by_cases h : n < s.params.z
  · simp [frameLine, zeroLine, lineBitsOf, lineOfsOf, lineFieldOf, lineFailed, lineOorOf, h, Config.bitsPerLine]
  · cases hf : (findSync s n).found <;>
      simp [frameLine, dataLine, lineBitsOf, lineOfsOf, lineFieldOf, lineFailed, lineOorOf, h, hf,
        Nat.le_of_not_lt h]

/-- The loop over the lines `n .. n + m − 1`. -/
structure FrameLoop (s : State) (m n : Nat) (f g : FrameOutputs) : Prop where
  wf_bits : Memory.wf g.bitstream = true
  wf_ofs : Memory.wf g.lineOfs = true
  wf_flags : Memory.wf g.lineFlags = true
  bits : ∀ k j (hj : j < (lineBitsOf s k).length), n ≤ k → k < n + m →
    Memory.read g.bitstream (99 * k + j) = (lineBitsOf s k)[j]
  bits_other : ∀ a, a < 99 * n ∨ 99 * (n + m) ≤ a → Memory.read g.bitstream a = Memory.read f.bitstream a
  ofs : ∀ k, n ≤ k → k < n + m → Memory.read g.lineOfs k = lineOfsOf s k
  ofs_other : ∀ a, a < n ∨ n + m ≤ a → Memory.read g.lineOfs a = Memory.read f.lineOfs a
  flags : ∀ k, n ≤ k → k < n + m → Memory.read g.lineFlags k = lineFieldOf s k
  flags_other : ∀ a, a < n ∨ n + m ≤ a → Memory.read g.lineFlags a = Memory.read f.lineFlags a
  fails : g.fails = f.fails + (List.range' n m).countP (lineFailed s)
  anyOor : g.anyOor = (f.anyOor || (List.range' n m).any (lineOorOf s))

theorem frameLines_loop (s : State) (m n : Nat) (f : FrameOutputs) (hb : Memory.wf f.bitstream = true)
    (ho : Memory.wf f.lineOfs = true) (hg : Memory.wf f.lineFlags = true) :
    FrameLoop s m n f (frameLines s m n f) := by
  induction m generalizing n f with
  | zero =>
    exact
      { wf_bits := hb, wf_ofs := ho, wf_flags := hg
        bits := fun k j _ h1 h2 => absurd h2 (by omega)
        bits_other := fun _ _ => rfl
        ofs := fun k h1 h2 => absurd h2 (by omega)
        ofs_other := fun _ _ => rfl
        flags := fun k h1 h2 => absurd h2 (by omega)
        flags_other := fun _ _ => rfl
        fails := by simp [frameLines]
        anyOor := by simp [frameLines] }
  | succ m ih =>
    have hstep := frameLine_eq s n f
    have hb' : Memory.wf (frameLine s n f).bitstream = true := by
      rw [hstep]; exact Memory.wf_writeRange _ _ _ hb
    have ho' : Memory.wf (frameLine s n f).lineOfs = true := by
      rw [hstep]; exact Memory.wf_write _ _ _ ho
    have hg' : Memory.wf (frameLine s n f).lineFlags = true := by
      rw [hstep]; exact Memory.wf_write _ _ _ hg
    have L := ih (n + 1) (frameLine s n f) hb' ho' hg'
    have hlen := lineBitsOf_length s n
    refine
      { wf_bits := L.wf_bits, wf_ofs := L.wf_ofs, wf_flags := L.wf_flags, bits := ?_, bits_other := ?_
        ofs := ?_, ofs_other := ?_, flags := ?_, flags_other := ?_, fails := ?_, anyOor := ?_ }
    · intro k j hj h1 h2
      by_cases hk : k = n
      · subst hk
        show Memory.read (frameLines s m (k + 1) (frameLine s k f)).bitstream (99 * k + j) = _
        rw [L.bits_other _ (.inl (by rw [hlen] at hj; omega)), hstep]
        exact read_writeLineBits _ _ _ _ hb hj
      · exact L.bits k j hj (by omega) (by omega)
    · intro a ha
      show Memory.read (frameLines s m (n + 1) (frameLine s n f)).bitstream a = _
      rw [L.bits_other a (by omega), hstep]
      exact read_writeLineBits_other _ _ _ _ (by rw [hlen]; omega)
    · intro k h1 h2
      by_cases hk : k = n
      · subst hk
        show Memory.read (frameLines s m (k + 1) (frameLine s k f)).lineOfs k = _
        rw [L.ofs_other k (by omega), hstep]
        exact (Memory.read_write _ _ _ _ ho).trans (if_pos rfl)
      · exact L.ofs k (by omega) (by omega)
    · intro a ha
      show Memory.read (frameLines s m (n + 1) (frameLine s n f)).lineOfs a = _
      rw [L.ofs_other a (by omega), hstep]
      exact Memory.read_write_other _ _ _ _ (by omega)
    · intro k h1 h2
      by_cases hk : k = n
      · subst hk
        show Memory.read (frameLines s m (k + 1) (frameLine s k f)).lineFlags k = _
        rw [L.flags_other k (by omega), hstep]
        exact (Memory.read_write _ _ _ _ hg).trans (if_pos rfl)
      · exact L.flags k (by omega) (by omega)
    · intro a ha
      show Memory.read (frameLines s m (n + 1) (frameLine s n f)).lineFlags a = _
      rw [L.flags_other a (by omega), hstep]
      exact Memory.read_write_other _ _ _ _ (by omega)
    · show (frameLines s m (n + 1) (frameLine s n f)).fails = _
      rw [L.fails, hstep, List.range'_succ, List.countP_cons]
      simp only
      omega
    · show (frameLines s m (n + 1) (frameLine s n f)).anyOor = _
      rw [L.anyOor, hstep, List.range'_succ, List.any_cons, Bool.or_assoc]

/-- Bounds on the addresses the loop lists. -/
theorem frameLines_below (s : State) (m n l : Nat) (f : FrameOutputs) (h : n + m ≤ l)
    (hb : Memory.below f.bitstream (99 * l) = true) (ho : Memory.below f.lineOfs l = true)
    (hg : Memory.below f.lineFlags l = true) :
    Memory.below (frameLines s m n f).bitstream (99 * l) = true ∧
      Memory.below (frameLines s m n f).lineOfs l = true ∧ Memory.below (frameLines s m n f).lineFlags l = true := by
  induction m generalizing n f with
  | zero => exact ⟨hb, ho, hg⟩
  | succ m ih =>
    have hstep := frameLine_eq s n f
    refine ih (n + 1) (frameLine s n f) (by omega) ?_ ?_ ?_
    · rw [hstep]
      refine Memory.below_writeRange _ _ _ _ hb ?_
      rw [lineBitsOf_length, Config.bitsPerLine]
      omega
    · rw [hstep]; exact Memory.below_write _ _ _ _ ho (by omega)
    · rw [hstep]; exact Memory.below_write _ _ _ _ hg (by omega)

/-- What DECODE_FRAME's outputs hold, line by line (44_frame.md R86). -/
theorem frameOutputs_loop (s : State) (hb : Memory.wf s.bitstream = true) (ho : Memory.wf s.lineOfs = true)
    (hg : Memory.wf s.lineFlags = true) :
    FrameLoop s s.params.l 0
      { bitstream := s.bitstream, lineOfs := s.lineOfs, lineFlags := s.lineFlags, fails := 0, anyOor := false }
      (frameOutputs s) := frameLines_loop s _ _ _ hb ho hg

/-- Bounds on the addresses DECODE_FRAME's outputs list. -/
theorem frameOutputs_below (s : State) (hb : Memory.below s.bitstream (99 * s.params.l) = true)
    (ho : Memory.below s.lineOfs s.params.l = true) (hg : Memory.below s.lineFlags s.params.l = true) :
    Memory.below (frameOutputs s).bitstream (99 * s.params.l) = true ∧
      Memory.below (frameOutputs s).lineOfs s.params.l = true ∧
      Memory.below (frameOutputs s).lineFlags s.params.l = true :=
  frameLines_below s s.params.l 0 s.params.l _ (by omega) hb ho hg

end Sys2Proof.Machine
end

