-- ==== Sys2Proof/Laws/Ops.lean ====
section
/-! SUPPORT. What each shared operation, each command and one step can do, said once. -/

namespace Sys2Proof.Machine

/-! ## Host accesses -/

theorem aligned_iff (a : HostAddr) : aligned a = true ↔ a.toNat % 4 = 0 := by
  unfold aligned
  rw [beq_iff_eq, ← BitVec.toNat_inj]
  simp [BitVec.extractLsb'_toNat]

/-- A host access that answers a next state was aligned, outside reset, and did `act` at the address's location. -/
theorem hostAccess_next {a : HostAddr} {act : Location → State → State} {s t : State}
    (h : hostAccess a act s = .next t) : s.inReset = false ∧ aligned a = true ∧ t = act (locate a) s := by
  unfold hostAccess at h
  split at h
  · cases h
  · next hr =>
    split at h
    · next ha =>
      injection h with h
      exact ⟨by simpa using hr, ha, h.symm⟩
    · cases h

/-- An aligned access outside reset does `act` at the address's location. -/
theorem hostAccess_eq {a : HostAddr} {act : Location → State → State} {s : State} (hr : s.inReset = false)
    (ha : aligned a = true) : hostAccess a act s = .next (act (locate a) s) := by
  simp [hostAccess, hr, ha]

/-- What a read does to the model's own fields: at most one value is drawn, and the polling hazard ends exactly at a
STATUS read that returns BUSY = 0. -/
theorem readLocation_eq (l : Location) (s : State) :
    ∃ v d, (d = s.draws ∨ d = s.draws + 1) ∧
      readLocation l s = { s with
        reads := v :: s.reads
        draws := d
        unpolled := if l = .status ∧ flag s.status busyBit = false then false else s.unpolled } := by
  unfold readLocation record
  by_cases hv : (volatile l && outstanding s) = true
  · have hl : ¬ (l = .status ∧ flag s.status busyBit = false) := by
      rintro ⟨rfl, -⟩
      simp [volatile] at hv
    rw [if_pos hv, if_neg hl]
    exact ⟨_, _, .inr rfl, rfl⟩
  · rw [if_neg hv]
    dsimp only
    by_cases hl : l = .status ∧ flag s.status busyBit = false
    · rw [if_pos hl, if_pos hl]
      exact ⟨_, _, .inl rfl, rfl⟩
    · rw [if_neg hl, if_neg hl]
      exact ⟨_, _, .inl rfl, rfl⟩

/-- A read: the host's record grows by one word, the draw counter and the polling hazard may change, nothing else. -/
theorem readLocation_frame (l : Location) (s : State) :
    ∃ v d u, readLocation l s = { s with reads := v :: s.reads, draws := d, unpolled := u } := by
  obtain ⟨v, d, -, h⟩ := readLocation_eq l s
  exact ⟨v, d, _, h⟩

/-- A read clears the polling hazard only by returning BUSY = 0. -/
theorem readLocation_unpolled (l : Location) (s : State) (h : (readLocation l s).unpolled = false) :
    s.unpolled = false ∨ flag s.status busyBit = false := by
  unfold readLocation record at h
  split at h
  · exact .inl h
  · dsimp only at h
    split at h
    · next hl => exact .inr hl.2
    · exact .inl h

/-- The locations a host write can change. -/
def writable : Location → Bool
  | .cmd => true
  | .lfsr => true
  | .offset => true
  | .width => true
  | .height => true
  | _ => false

/-- A write while a command is in flight: only ERR_BUSY, and only at a read/write register (60_exceptions.md R98). -/
theorem writeLocation_busy (l : Location) (v : Word) (s : State) (c : Word) (h : s.eng = .busy c) :
    writeLocation l v s = if writable l then raise .busyWrite s else s := by
  cases l <;> simp [writeLocation, writeCmd, writeRegister, isBusy, h, writable]

/-- A write while idle that is not a `CMD` write stores a register or does nothing (20_memory.md R37). -/
theorem writeLocation_idle (l : Location) (v : Word) (s : State) (h : s.eng = .idle) (hl : l ≠ .cmd) :
    ∃ a b x y, writeLocation l v s = { s with lfsr := a, offset := b, width := x, height := y } := by
  have reg : ∀ u, writeRegister u s = u := fun u => by simp [writeRegister, isBusy, h]
  cases l with
  | cmd => exact absurd rfl hl
  | lfsr => exact ⟨v.setWidth 15, s.offset, s.width, s.height, reg _⟩
  | offset => exact ⟨s.lfsr, v, s.width, s.height, reg _⟩
  | width => exact ⟨s.lfsr, s.offset, v.setWidth 16, s.height, reg _⟩
  | height => exact ⟨s.lfsr, s.offset, s.width, v.setWidth 16, reg _⟩
  | _ => exact ⟨s.lfsr, s.offset, s.width, s.height, rfl⟩

/-- A `CMD` write while idle is an acceptance or a refusal (30_encoding.md R50). -/
theorem writeCmd_idle (c : Word) (s : State) (h : s.eng = .idle) :
    (legalCommand s.params c = none ∧ writeCmd c s = refuseIllegal (takeWord c s)) ∨
      ((legalCommand s.params c).isSome = true ∧ writeCmd c s = launch c (takeWord c s)) := by
  unfold writeCmd
  rw [h]
  cases hc : legalCommand s.params c with
  | none => exact .inl ⟨rfl, rfl⟩
  | some i => exact .inr ⟨rfl, rfl⟩

theorem writeCmd_busy (c w : Word) (s : State) (h : s.eng = .busy w) : writeCmd c s = raise .busyWrite s := by
  unfold writeCmd
  rw [h]

theorem ite_ne {c : Prop} [Decidable c] {x y z : Location} (hx : x ≠ z) (hy : y ≠ z) :
    (if c then x else y) ≠ z := by
  split <;> assumption

/-- Only address 0 is `CMD`. -/
theorem locate_cmd (a : HostAddr) (h : locate a = .cmd) : a = 0#17 := by
  by_contra ha
  have h0 : ¬ a.toNat = 0 := fun h0 => ha (BitVec.eq_of_toNat_eq (by simpa using h0))
  revert h
  unfold locate
  dsimp only
  rw [if_neg h0]
  repeat' apply ite_ne
  all_goals exact fun h => Location.noConfusion h

/-- Only address 4 is `STATUS`. -/
theorem locate_status (a : HostAddr) : locate a = .status ↔ a = 0x00004#17 := by
  constructor
  · intro h
    by_contra ha
    have h4 : ¬ a.toNat = 4 := fun h4 => ha (BitVec.eq_of_toNat_eq (by simpa using h4))
    revert h
    unfold locate
    dsimp only
    rw [if_neg h4]
    repeat' apply ite_ne
    all_goals exact fun h => Location.noConfusion h
  · rintro rfl
    decide

/-! ## The supplier -/

/-- A raster within the extents is presented, in canonical form; in flight a different one is recorded as a change. -/
theorem supplyRaster_eq {r : Raster} (s : State) (hw : r.width ≤ Config.maxExtent) (hh : r.height ≤ Config.maxExtent) :
    supplyRaster r s = .next { s with
      raster := normalRaster r
      disturbed := isBusy s && (s.disturbed || decide (normalRaster r ≠ s.raster)) } := by
  unfold supplyRaster
  rw [if_neg (by omega)]
  cases he : s.eng <;> simp [isBusy, he]

/-- A raster above the extents is refused. -/
theorem supplyRaster_refused {r : Raster} (s : State) (h : Config.maxExtent < r.width ∨ Config.maxExtent < r.height) :
    supplyRaster r s = .refused .rasterTooLarge := if_pos h

theorem supplyRaster_next {r : Raster} {s t : State} (h : supplyRaster r s = .next t) :
    r.width ≤ Config.maxExtent ∧ r.height ≤ Config.maxExtent ∧
      ∃ d, (s.eng = .idle → d = false) ∧ t = { s with raster := normalRaster r, disturbed := d } := by
  unfold supplyRaster at h
  split at h
  · cases h
  · next hr =>
    injection h with h
    refine ⟨by omega, by omega, _, ?_, h.symm⟩
    intro he
    rw [he]

/-! ## Commands -/

theorem exec_lfsrStep (s : State) : exec .lfsrStep s = .next (complete (stepScrambler s)) := rfl

theorem exec_lfsrSeed (n : LineField) (s : State) :
    exec (.lfsrSeed n) s = .next (complete (loadSeed n.toNat s)) := rfl

theorem exec_classify (v : Byte) (s : State) :
    exec (.classify v) s = .next (complete (putResult (classifyResult v) s)) := rfl

theorem exec_decodeFrame (s : State) : exec .decodeFrame s = .next (complete (decodeFrame s)) := rfl

theorem exec_splitPackets (s : State) : exec .splitPackets s = .next (complete (splitPackets s)) := rfl

theorem lineLegal_iff (s : State) (n : LineField) : lineLegal s n = true ↔ n.toNat < s.params.l := by
  simp [lineLegal, lineInFrame]

theorem exec_findSync (n : LineField) (s : State) (h : n.toNat < s.params.l) :
    exec (.findSync n) s = .next (complete (searchLine n.toNat s)) := by
  show execFindSync n s = _
  unfold execFindSync
  rw [if_pos ((lineLegal_iff s n).mpr h)]
  rfl

theorem exec_sampleLine (n : LineField) (s : State) (h : n.toNat < s.params.l) :
    exec (.sampleLine n) s = .next (complete (storeLine n.toNat s)) := by
  show execSampleLine n s = _
  unfold execSampleLine
  rw [if_pos ((lineLegal_iff s n).mpr h)]
  rfl

theorem exec_findSync_outside (n : LineField) (s : State) (h : s.params.l ≤ n.toNat) :
    exec (.findSync n) s = .next (abandonIllegal s) := by
  show execFindSync n s = _
  unfold execFindSync
  rw [if_neg (by rw [lineLegal_iff]; omega)]

theorem exec_sampleLine_outside (n : LineField) (s : State) (h : s.params.l ≤ n.toNat) :
    exec (.sampleLine n) s = .next (abandonIllegal s) := by
  show execSampleLine n s = _
  unfold execSampleLine
  rw [if_neg (by rw [lineLegal_iff]; omega)]

theorem searchLine_stable (n : Nat) (s : State) (h : rasterStable s = true) :
    searchLine n s = putSyncOutputs (syncOutputs s n) s := if_pos h

theorem searchLine_broken (n : Nat) (s : State) (h : rasterStable s = false) :
    searchLine n s = putSyncOutputs (drawnSyncOutputs s.draws) (spendDraws 3 s) :=
  if_neg (by simp [h])

theorem storeLine_stable (n : Nat) (s : State) (h : rasterStable s = true) :
    storeLine n s = putSampleOutputs n (sampleOutputs s n) s := if_pos h

theorem storeLine_broken (n : Nat) (s : State) (h : rasterStable s = false) :
    storeLine n s = putSampleOutputs n (drawnSampleOutputs s.draws) (spendDraws 102 s) :=
  if_neg (by simp [h])

theorem decodeFrame_malformed (s : State) (h : malformed s = true) : decodeFrame s = refuseFrame s := if_pos h

theorem decodeFrame_stable (s : State) (hm : malformed s = false) (h : rasterStable s = true) :
    decodeFrame s = putFrameOutputs (frameOutputs s) s := by
  unfold decodeFrame
  rw [if_neg (by simp [hm]), if_pos h]

theorem decodeFrame_broken (s : State) (hm : malformed s = false) (h : rasterStable s = false) :
    decodeFrame s = putDrawnFrame s := by
  unfold decodeFrame
  rw [if_neg (by simp [hm]), if_neg (by simp [h])]

@[simp] theorem drawnBits_length (d m : Nat) : (drawnBits d m).length = m := by simp [drawnBits]

/-- What a command's effect, before its completion, leaves alone. -/
structure EffectFrame (s t : State) : Prop where
  params : t.params = s.params
  cmd : t.cmd = s.cmd
  width : t.width = s.width
  height : t.height = s.height
  raster : t.raster = s.raster
  inReset : t.inReset = s.inReset
  pending : t.pending = s.pending
  reads : t.reads = s.reads
  unpolled : t.unpolled = s.unpolled

theorem searchLine_frame (n : Nat) (s : State) : EffectFrame s (searchLine n s) := by
  unfold searchLine
  split <;> constructor <;> rfl

theorem storeLine_frame (n : Nat) (s : State) : EffectFrame s (storeLine n s) := by
  unfold storeLine
  split <;> refine ⟨?_, ?_, ?_, ?_, ?_, ?_, ?_, ?_, ?_⟩ <;> simp

theorem decodeFrame_frame (s : State) : EffectFrame s (decodeFrame s) := by
  unfold decodeFrame
  split
  · constructor <;> rfl
  · split <;> constructor <;> rfl

/-- Every command completes, whatever the state, and leaves its surroundings alone. -/
theorem exec_next (i : Instr) (s : State) :
    ∃ t, exec i s = .next t ∧ t.eng = .idle ∧ t.disturbed = false ∧ flag t.status busyBit = false ∧
      flag t.status doneBit = true ∧ EffectFrame s t := by
  have done : ∀ u, EffectFrame s u → ∃ t, Host.Outcome.next (φ := Fault) (ρ := Refusal) (complete u) = .next t ∧
      t.eng = .idle ∧ t.disturbed = false ∧ flag t.status busyBit = false ∧ flag t.status doneBit = true ∧
      EffectFrame s t := by
    intro u hu
    refine ⟨_, rfl, rfl, rfl, ?_, ?_, ⟨hu.1, hu.2, hu.3, hu.4, hu.5, hu.6, hu.7, hu.8, hu.9⟩⟩ <;>
      simp [busyBit, doneBit]
  have raised : EffectFrame s (raise .illegalCommand s) := by constructor <;> rfl
  cases i with
  | lfsrStep => exact done _ (by constructor <;> rfl)
  | lfsrSeed n => exact done _ (by constructor <;> rfl)
  | classify v => exact done _ (by constructor <;> rfl)
  | findSync n =>
    by_cases h : n.toNat < s.params.l
    · rw [exec_findSync n s h]; exact done _ (searchLine_frame _ s)
    · rw [exec_findSync_outside n s (by omega)]; exact done _ raised
  | sampleLine n =>
    by_cases h : n.toNat < s.params.l
    · rw [exec_sampleLine n s h]; exact done _ (storeLine_frame _ s)
    · rw [exec_sampleLine_outside n s (by omega)]; exact done _ raised
  | decodeFrame => exact done _ (decodeFrame_frame s)
  | splitPackets =>
    rw [exec_splitPackets]
    refine done _ ⟨?_, ?_, ?_, ?_, ?_, ?_, ?_, ?_, ?_⟩ <;> simp

/-! ## One step -/

/-- The engine is next to move, and `rest` is what is pending after it. -/
def EngineMoves (s : State) (rest : List Event) : Prop :=
  (s.pending = [] ∧ rest = []) ∨ s.pending = .engineStep :: rest

/-- Everything one step that answers a next state can be. -/
inductive StepCase (s t : State) : Prop
  | waits (rest : List Event) (moves : EngineMoves s rest) (idle : s.inReset = true ∨ s.eng = .idle)
      (eq : t = withPending rest s)
  | runs (rest : List Event) (c : Word) (i : Instr) (moves : EngineMoves s rest) (out : s.inReset = false)
      (busy : s.eng = .busy c) (word : decode c = .ok i) (eq : exec i (withPending rest s) = .next t)
  | abandons (rest : List Event) (c : Word) (e : DecodeError) (moves : EngineMoves s rest)
      (out : s.inReset = false) (busy : s.eng = .busy c) (word : decode c = .error e)
      (eq : t = abandonIllegal (withPending rest s))
  | reads (rest : List Event) (a : HostAddr) (head : s.pending = .hostRead a :: rest) (out : s.inReset = false)
      (al : aligned a = true) (eq : t = readLocation (locate a) (withPending rest s))
  | writes (rest : List Event) (a : HostAddr) (v : Word) (head : s.pending = .hostWrite a v :: rest)
      (out : s.inReset = false) (al : aligned a = true)
      (eq : t = writeLocation (locate a) v (withPending rest s))
  | asserts (rest : List Event) (head : s.pending = .assertReset :: rest)
      (eq : t = assertReset (withPending rest s))
  | releases (rest : List Event) (head : s.pending = .releaseReset :: rest)
      (eq : t = releaseReset (withPending rest s))
  | supplies (rest : List Event) (r : Raster) (head : s.pending = .supplyRaster r :: rest)
      (eq : supplyRaster r (withPending rest s) = .next t)

theorem step_of_turn {s : State} {o : Host.Outcome State Fault Refusal} (h : nextTurn s = .settled o) :
    step s = o := by
  unfold step
  rw [h]

theorem step_of_command {s u : State} {i : Instr} (h : nextTurn s = .command i u) : step s = exec i u := by
  unfold step
  rw [h]

/-- The engine's turn. -/
theorem engineTurn_eq (s : State) :
    ((s.inReset = true ∨ s.eng = .idle) ∧ engineTurn s = .settled (.next s)) ∨
    (∃ c i, s.inReset = false ∧ s.eng = .busy c ∧ decode c = .ok i ∧ engineTurn s = .command i s) ∨
    (∃ c e, s.inReset = false ∧ s.eng = .busy c ∧ decode c = .error e ∧
      engineTurn s = .settled (.next (abandonIllegal s))) := by
  unfold engineTurn
  cases hr : s.inReset with
  | true => exact .inl ⟨.inl rfl, rfl⟩
  | false =>
    cases he : s.eng with
    | idle => exact .inl ⟨.inr rfl, rfl⟩
    | busy c =>
      cases hd : decode c with
      | ok i => exact .inr (.inl ⟨c, i, rfl, rfl, hd, by simp [hd]⟩)
      | error e => exact .inr (.inr ⟨c, e, rfl, rfl, hd, by simp [hd]⟩)

/-- The turn when the engine is next to move. -/
theorem nextTurn_engine {s : State} {rest : List Event} (h : EngineMoves s rest) :
    nextTurn s = engineTurn (withPending rest s) := by
  unfold nextTurn
  rcases h with ⟨h, rfl⟩ | h
  · rw [h]
    have hs : withPending [] s = s := by rw [withPending, ← h]
    rw [hs]
  · rw [h]
    rfl

theorem step_cases {s t : State} (h : step s = .next t) : StepCase s t := by
  have engine : ∀ rest, EngineMoves s rest → StepCase s t := by
    intro rest hm
    have hn := nextTurn_engine hm
    rcases engineTurn_eq (withPending rest s) with ⟨hi, he⟩ | ⟨c, i, hr, hb, hd, he⟩ | ⟨c, e, hr, hb, hd, he⟩
    · rw [step_of_turn (hn.trans he)] at h
      injection h with h
      exact .waits rest hm hi h.symm
    · rw [step_of_command (hn.trans he)] at h
      exact .runs rest c i hm hr hb hd h
    · rw [step_of_turn (hn.trans he)] at h
      injection h with h
      exact .abandons rest c e hm hr hb hd h.symm
  cases hp : s.pending with
  | nil => exact engine [] (.inl ⟨hp, rfl⟩)
  | cons e rest =>
    have hn : nextTurn s = eventTurn e (withPending rest s) := by unfold nextTurn; rw [hp]
    cases e with
    | hostRead a =>
      rw [step_of_turn hn] at h
      obtain ⟨hr, ha, ht⟩ := hostAccess_next h
      exact .reads rest a hp hr ha ht
    | hostWrite a v =>
      rw [step_of_turn hn] at h
      obtain ⟨hr, ha, ht⟩ := hostAccess_next h
      exact .writes rest a v hp hr ha ht
    | engineStep => exact engine rest (.inr hp)
    | assertReset =>
      rw [step_of_turn hn] at h
      injection h with h
      exact .asserts rest hp h.symm
    | releaseReset =>
      rw [step_of_turn hn] at h
      injection h with h
      exact .releases rest hp h.symm
    | supplyRaster r =>
      rw [step_of_turn hn] at h
      exact .supplies rest r hp h

end Sys2Proof.Machine
end

