-- ==== Sys2Proof/Laws/Packets.lean ====
section
/-! SUPPORT. What SPLIT_PACKETS' loop leaves in each byte (45_packets.md R95), said once. -/

namespace Sys2Proof.Machine

/-- Bit `k` of a byte built from its bits. -/
theorem byteOfBits_getLsbD (f : Nat → Bit) (k : Nat) (hk : k < 8) :
    BitVec.ofBool ((byteOfBits f).getLsbD k) = f k := by
  have one : ∀ b : Bit, BitVec.ofBool (b.getLsbD 0) = b := by decide
  unfold byteOfBits
  interval_cases k <;> simp only [BitVec.getLsbD_append] <;> exact one _

@[simp] theorem packetBytes_length (stream : Memory 1) (p : Nat) : (packetBytes stream p).length = 94 := by
  simp [packetBytes, Config.pktBytes]

theorem packetBytes_get (stream : Memory 1) (p b : Nat) (hb : b < (packetBytes stream p).length) :
    (packetBytes stream p)[b] = deinterleavedByte stream p b := by
  simp [packetBytes]

/-- Packets `p .. p + m − 1` hold their deinterleaved bytes; every other byte is as before. -/
theorem splitFrom_read (stream : Memory 1) (m p : Nat) (pkt : Memory 8) (hw : Memory.wf pkt = true) :
    Memory.wf (splitFrom stream m p pkt) = true ∧
    (∀ q b, p ≤ q → q < p + m → b < 94 →
      Memory.read (splitFrom stream m p pkt) (94 * q + b) = deinterleavedByte stream q b) ∧
    (∀ a, a < 94 * p ∨ 94 * (p + m) ≤ a → Memory.read (splitFrom stream m p pkt) a = Memory.read pkt a) := by
  induction m generalizing p pkt with
  | zero => exact ⟨hw, fun q b h1 h2 => absurd h2 (by omega), fun _ _ => rfl⟩
  | succ m ih =>
    have hw' := Memory.wf_writeRange (packetBytes stream p) pkt (Config.pktBytes * p) hw
    obtain ⟨h1, h2, h3⟩ := ih (p + 1) _ hw'
    refine ⟨h1, fun q b hq hq' hb => ?_, fun a ha => ?_⟩
    · by_cases h : q = p
      · subst h
        have hlen : b < (packetBytes stream q).length := by rw [packetBytes_length]; exact hb
        show Memory.read (splitFrom stream m (q + 1) _) (94 * q + b) = _
        rw [h3 _ (.inl (by omega))]
        exact (Memory.read_writeRange_inside _ pkt (94 * q) b hw hlen).trans (packetBytes_get stream q b hlen)
      · exact h2 q b (by omega) (by omega) hb
    · show Memory.read (splitFrom stream m (p + 1) _) a = _
      rw [h3 a (by omega)]
      exact Memory.read_writeRange_other _ pkt (94 * p) a (by rw [packetBytes_length]; omega)

theorem splitFrom_below (stream : Memory 1) (m p bound : Nat) (pkt : Memory 8)
    (hb : Memory.below pkt bound = true) (h : 94 * (p + m) ≤ bound) :
    Memory.below (splitFrom stream m p pkt) bound = true := by
  induction m generalizing p pkt with
  | zero => exact hb
  | succ m ih =>
    refine ih (p + 1) _ (Memory.below_writeRange _ _ _ _ hb ?_) (by omega)
    rw [packetBytes_length, Config.pktBytes]
    omega

end Sys2Proof.Machine
end

