-- ==== Sys2Proof/Laws/PerInstr.lean ====
section
/-! SUPPORT. A statement about every command as syntax, one lemma per command (30_encoding.md R46, R52). -/

/-- The encoder writes 0 in bits 27:10, which every opcode ignores (30_encoding.md R46, R52). -/
def Sys2Proof.Laws.IgnoredBitsZero.Statement (i : Sys2Proof.Instr) : Prop :=
  ∀ k, 10 ≤ k → k < 28 → (Sys2Proof.encode i).getLsbD k = false

/-- A command word with any opcode and operand has 0 in bits 27:10. -/
theorem Sys2Proof.Laws.commandWord_ignored (op : BitVec 4) (x : BitVec 10) (k : Nat) (h : 10 ≤ k) (h' : k < 28) :
    (Sys2Proof.commandWord op x).getLsbD k = false := by
  rw [Sys2Proof.commandWord_getLsbD, if_neg (by omega), if_pos h']

theorem Sys2Proof.Laws.IgnoredBitsZero.lfsrStep : Sys2Proof.Laws.IgnoredBitsZero.Statement .lfsrStep :=
  Sys2Proof.Laws.commandWord_ignored _ _

theorem Sys2Proof.Laws.IgnoredBitsZero.lfsrSeed (n : Sys2Proof.LineField) :
    Sys2Proof.Laws.IgnoredBitsZero.Statement (.lfsrSeed n) := Sys2Proof.Laws.commandWord_ignored _ _

theorem Sys2Proof.Laws.IgnoredBitsZero.classify (v : Sys2Proof.Byte) :
    Sys2Proof.Laws.IgnoredBitsZero.Statement (.classify v) := Sys2Proof.Laws.commandWord_ignored _ _

theorem Sys2Proof.Laws.IgnoredBitsZero.findSync (n : Sys2Proof.LineField) :
    Sys2Proof.Laws.IgnoredBitsZero.Statement (.findSync n) := Sys2Proof.Laws.commandWord_ignored _ _

theorem Sys2Proof.Laws.IgnoredBitsZero.sampleLine (n : Sys2Proof.LineField) :
    Sys2Proof.Laws.IgnoredBitsZero.Statement (.sampleLine n) := Sys2Proof.Laws.commandWord_ignored _ _

theorem Sys2Proof.Laws.IgnoredBitsZero.decodeFrame : Sys2Proof.Laws.IgnoredBitsZero.Statement .decodeFrame :=
  Sys2Proof.Laws.commandWord_ignored _ _

theorem Sys2Proof.Laws.IgnoredBitsZero.splitPackets : Sys2Proof.Laws.IgnoredBitsZero.Statement .splitPackets :=
  Sys2Proof.Laws.commandWord_ignored _ _
end

