-- ==== Sys2Proof/Tests/Slice0.lean ====
section
/-! SUPPORT. The model's own tests: the well-formedness smoke test, words decoded from their encoding, one-step vectors of
95_test_vectors.md, and one witness for the hypotheses of every statement that has some. -/

namespace Sys2Proof.Tests

open Sys2Proof Sys2Proof.Machine

/-! ## Helpers -/

/-- TC1 of 95_test_vectors.md, section 0. -/
def tc1 : Params := { seed0 := 0x7FFF#15, n := 15, d := 8, ph := 4, row0 := 0, l := 623, z := 1 }

/-- TC1 with the degenerate `SEED0 = 0` (40_scrambler.md R57). -/
def tcZero : Params := { tc1 with seed0 := 0#15 }

/-- Right after reset under TC1. -/
def idle : State := State.resetWith tc1

/-- The command `c` in flight, nothing pending. -/
def flying (c : Word) : State := placeInFlight c idle

/-- A supplier's raster of `w × h` samples with `cells`, and `WIDTH` and `HEIGHT` equal to it. -/
def withRaster (w h : Nat) (cells : List Host.Cell) (s : State) : State :=
  { s with raster := { width := w, height := h, cells := cells }, width := BitVec.ofNat 16 w, height := BitVec.ofNat 16 h }

/-- What a command leaves, read by `f`; none where it does not complete. -/
def after {α : Type} (i : Instr) (s : State) (f : State → α) : Option α :=
  match exec i s with
  | .next t => some (f t)
  | .fault _ => none
  | .refused _ => none

/-! ## Well-formedness (30_encoding.md R49) -/

theorem test_wellFormed_refuses_findSync_line_623 : WellFormed tc1 (.findSync 623#10) = false := by decide
theorem test_wellFormed_refuses_sampleLine_line_1023 : WellFormed tc1 (.sampleLine 1023#10) = false := by decide
theorem test_wellFormed_takes_the_last_line : WellFormed tc1 (.findSync 622#10) = true := by decide
theorem test_wellFormed_takes_every_seed : WellFormed tc1 (.lfsrSeed 1023#10) = true := by decide

/-! ## Decoding: words written out from 30_encoding.md R46, R47, R48, bits 31:28, 27:10, 9:0 -/

theorem test_decode_lfsrStep : decode 0b0001_000000000000000000_0000000000#32 = .ok .lfsrStep := by decide
theorem test_decode_lfsrSeed : decode 0b0010_000000000000000000_1000000001#32 = .ok (.lfsrSeed 513#10) := by decide
theorem test_decode_classify : decode 0b0011_000000000000000000_0010101011#32 = .ok (.classify 0xAB#8) := by decide
theorem test_decode_findSync : decode 0b0100_000000000000000000_0000000101#32 = .ok (.findSync 5#10) := by decide
theorem test_decode_sampleLine : decode 0b0101_000000000000000000_1001101110#32 = .ok (.sampleLine 622#10) := by decide
theorem test_decode_decodeFrame : decode 0b0110_000000000000000000_0000000000#32 = .ok .decodeFrame := by decide
theorem test_decode_splitPackets : decode 0b0111_000000000000000000_0000000000#32 = .ok .splitPackets := by decide
/-- T2: bits 27:8 of CLASSIFY are ignored. -/
theorem test_decode_ignores_bits : decode 0x3FFFFF55#32 = .ok (.classify 0x55#8) := by decide
theorem test_decode_rejects_reserved_opcodes :
    decode 0x00000000#32 = .error (.reservedOpcode 0#4) ∧ decode 0x80000000#32 = .error (.reservedOpcode 8#4) ∧
      decode 0xFFFFFFFF#32 = .error (.reservedOpcode 15#4) := by decide

/-- Each word of the table runs as the first command after reset, whatever the hardware's parameters. -/
theorem test_table_words_run :
    (∃ t, step (State.reset.withFetchWord 32 0x10000000) = .next t) ∧
      (∃ t, step (State.reset.withFetchWord 32 0x20000000) = .next t) ∧
      (∃ t, step (State.reset.withFetchWord 32 0x30000000) = .next t) ∧
      (∃ t, step (State.reset.withFetchWord 32 0x40000000) = .next t) ∧
      (∃ t, step (State.reset.withFetchWord 32 0x50000000) = .next t) ∧
      (∃ t, step (State.reset.withFetchWord 32 0x60000000) = .next t) ∧
      ∃ t, step (State.reset.withFetchWord 32 0x70000000) = .next t :=
  ⟨⟨_, rfl⟩, ⟨_, rfl⟩, ⟨_, rfl⟩, ⟨_, rfl⟩, ⟨_, rfl⟩, ⟨_, rfl⟩, ⟨_, rfl⟩⟩

/-! ## One step of each command, from 95_test_vectors.md -/

/-- T1.1. -/
theorem test_lfsrStep : after .lfsrStep { idle with lfsr := 0x0001#15 } (fun t => (t.lfsr, t.result, t.status)) =
    some (0x4000#15, 1#32, 2#32) := by decide
/-- T1.3. -/
theorem test_lfsrSeed_1 : after (.lfsrSeed 1#10) idle (fun t => (t.lfsr, t.result)) =
    some (0x2E97#15, 0x2E97#32) := by decide +kernel
/-- L1.2. -/
theorem test_classify_AB : after (.classify 0xAB#8) (flying 0x300000AB#32) (fun t => (t.result, t.status)) =
    some (0x00000101#32, 2#32) := by decide
theorem test_classify_55 : after (.classify 0x55#8) (flying 0x30000055#32) (fun t => (t.result, t.status)) =
    some (0x00000003#32, 2#32) := by decide
/-- T3.1: the pattern 0x34 drawn from column 0 of row 5. -/
theorem test_findSync_match_at_0 :
    after (.findSync 5#10)
        (withRaster 256 8 (([0, 1, 2, 3, 6, 7].map fun x => (rasterKey x 5, 0xFF#8))) (flying 0x40000005#32))
        (fun t => (t.offset, t.result, t.status)) = some (0xFFFFFFFF#32, 0#32, 0x00000006#32) := by decide +kernel
/-- T3.1: a grey row, `WIDTH = 13`. -/
theorem test_findSync_no_match :
    after (.findSync 5#10)
        (withRaster 13 8 ((List.range 13).map fun x => (rasterKey x 5, 0x80#8)) (flying 0x40000005#32))
        (fun t => (t.offset, t.result, t.status)) = some (0#32, 0#32, 0x00000022#32) := by decide +kernel
/-- T4: SAMPLE_LINE 9 below the raster. -/
theorem test_sampleLine_out_of_range :
    after (.sampleLine 9#10) (withRaster 256 8 [] { flying 0x50000009#32 with lfsr := 0x2665#15 })
        (fun t => (t.lfsr, t.result, t.status)) = some (0x3C17#15, 99#32, 0x00000012#32) := by decide +kernel
/-- T4: after `OFFSET = 19` the first data bit is read at column 31, and the next at 33. -/
theorem test_sampleLine_columns : dataColumn tc1 19 0 = 31 ∧ dataColumn tc1 19 98 = 215 := by decide
/-- T5: refused, 12 wide. -/
theorem test_decodeFrame_refused :
    after .decodeFrame (withRaster 12 623 [] (flying 0x60000000#32)) (fun t => (t.result, t.status, t.bitstream)) =
      some (0#32, 0x00000402#32, []) := by decide +kernel
/-- T5: line 0 always gets offset 0, the field ZERO and zero bits. -/
theorem test_decodeFrame_zero_line :
    let f := frameLine idle 0 { bitstream := [(98, 1#1), (99, 1#1)], lineOfs := [], lineFlags := [], fails := 0, anyOor := false }
    f.bitstream = [(99, 1#1)] ∧ f.lineOfs.read 0 = 0#32 ∧ f.lineFlags.read 0 = 8#4 := by decide +kernel
/-- T6.1: raw bit 658 is bit 7 of byte 0, raw bit 750 bit 7 of byte 92. -/
theorem test_splitPackets_lone_bits :
    deinterleavedByte [(658, 1#1), (750, 1#1)] 0 0 = 0x80#8 ∧ deinterleavedByte [(658, 1#1), (750, 1#1)] 0 92 = 0x80#8 ∧
      deinterleavedByte [(658, 1#1), (750, 1#1)] 0 93 = 0#8 := by decide +kernel
/-- T6.2: `E0 0D 80 7F`. -/
theorem test_packet_fields :
    let s : State := { idle with pkt := [(0, 0xE0#8), (1, 0x0D#8), (2, 0x80#8), (3, 0x7F#8)] }
    packetAddress s 0 = 480#10 ∧ packetContinuity s 0 = 3#2 ∧ payloadByte s 0 0 = 0xFF#8 ∧ payloadByte s 0 1 = 0#8 := by
  decide +kernel

/-! ## Witnesses: a concrete state and operands for the hypotheses of each statement -/

theorem witness_IgnoredBitsHaveNoEffect : ∃ (s t t' : State) (c c' : Word), c ≠ c' ∧ opField c = opField c' ∧
    ((opField c = 2#4 ∨ opField c = 4#4 ∨ opField c = 5#4) → nField c = nField c') ∧
    (opField c = 3#4 → vField c = vField c') ∧ s.eng = .idle ∧ s.inReset = false ∧
    s.width.toNat = s.raster.width ∧ s.height.toNat = s.raster.height ∧
    s.pending = [.hostWrite 0#17 c, .engineStep] ∧ runSteps 2 s = .next t ∧
    runSteps 2 { s with pending := [.hostWrite 0#17 c', .engineStep] } = .next t' :=
  ⟨{ idle with pending := [.hostWrite 0#17 0x3000_00AB#32, .engineStep] }, _, _, 0x3000_00AB#32, 0x3FFF_FFAB#32,
    by decide, by decide, by decide, by decide, rfl, rfl, rfl, rfl, rfl, rfl, rfl⟩

theorem witness_StepRunsTheCommandInFlight :
    (let s := flying 0x10000000#32;
      s.inReset = false ∧ s.eng = .busy 0x10000000#32 ∧ decode 0x10000000#32 = .ok .lfsrStep ∧ s.pending = []) ∧
    (let s : State := { flying 0x5000026E#32 with pending := [.engineStep, .hostRead 0x00004#17] };
      s.inReset = false ∧ s.eng = .busy 0x5000026E#32 ∧ decode 0x5000026E#32 = .ok (.sampleLine 622#10) ∧
        s.pending = .engineStep :: [.hostRead 0x00004#17]) := by decide

theorem witness_LegalWordIsAccepted : idle.eng = .idle ∧ idle.inReset = false ∧
    legalCommand idle.params 0x4000026E#32 ≠ none ∧ legalCommand idle.params 0x70000000#32 ≠ none := by decide

theorem witness_IllegalWordIsFlagged : idle.eng = .idle ∧ flag idle.status busyBit = false ∧ idle.inReset = false ∧
    legalCommand idle.params 0x0FFFFFFF#32 = none ∧ legalCommand idle.params 0x80000000#32 = none ∧
    legalCommand idle.params 0x4000026F#32 = none ∧ legalCommand idle.params 0x50000270#32 = none := by decide

theorem witness_BusyWriteIsDropped :
    ((flying 0x10000000#32).eng = .busy 0x10000000#32 ∧ (flying 0x10000000#32).inReset = false) ∧
    ((0x00018#17).toNat = 0x00018 ∧ (0x0001C#17).toNat % 4 = 0 ∧ (0x0001C#17).toNat ≠ 0x00018) ∧
    (∃ t, flag ({ flying 0x10000000#32 with status := 0x201#32 } : State).status errBusyBit = true ∧
      exec .lfsrStep { flying 0x10000000#32 with status := 0x201#32 } = .next t) ∧
    (∃ t, WellFormed idle.params (.findSync 622#10) = true ∧ exec (.findSync 622#10) idle = .next t) ∧
    ∃ t, idle.eng = .idle ∧ hostWrite 0x00000#17 0x10000000#32 idle = .next t :=
  ⟨⟨rfl, rfl⟩, by decide, ⟨_, by decide, rfl⟩, ⟨_, by decide, rfl⟩, ⟨_, rfl, rfl⟩⟩

theorem witness_CommandInFlightIsProtected : ∃ (s t : State) (c c' : Word), s.eng = .busy c ∧ step s = .next t ∧
    t.eng = .busy c' :=
  ⟨{ flying 0x10000000#32 with pending := [.hostWrite 0x00008#17 5#32] }, _, _, _, rfl, rfl, rfl⟩

theorem witness_OnlyAcceptanceLaunches : ∃ (s t : State) (c : Word), s.eng = .idle ∧ step s = .next t ∧
    t.eng = .busy c :=
  ⟨{ idle with pending := [.hostWrite 0#17 0x10000000#32] }, _, _, rfl, rfl, rfl⟩

/-- The invariant holds with LFSR_STEP in flight under TC1. -/
theorem flying_inv : Inv (flying 0x10000000#32) where
  busy_iff := by decide
  in_flight c h := by
    injection h with h
    subst h
    decide
  reserved := by unfold StatusReserved; decide
  bitstream := by unfold BufferWf; decide
  lineOfs := by unfold BufferWf; decide
  lineFlags := by unfold BufferWf; decide
  pkt := by unfold BufferWf; decide
  raster := ⟨by decide, by decide, rfl, rfl⟩
  reset_idle h := by cases h
  busy_unpolled _ := rfl
  idle_undisturbed h := by cases h

/-- The invariant says nothing of the pending events. -/
theorem inv_pending {s : State} (h : Inv s) (rest : List Event) : Inv { s with pending := rest } :=
  { h with }

/-- The clause about the reads that loop has its premise `Inv s` met, with a read that loops. -/
theorem witness_PollingEndsTheCommand_looping :
    Inv { flying 0x10000000#32 with pending := hostPoll 1 } ∧ hostPoll 1 ≠ hostPoll 0 :=
  ⟨inv_pending flying_inv _, by decide⟩

theorem witness_PollingEndsTheCommand :
    (let s : State := { flying 0x10000000#32 with pending := hostPoll 0 };
      s.eng = .busy 0x10000000#32 ∧ s.inReset = false ∧ s.pending = hostPoll 0) ∧
    (let s : State := { flying 0x4000026E#32 with pending := hostPoll 2 };
      s.eng = .busy 0x4000026E#32 ∧ s.inReset = false ∧ s.pending = hostPoll 2) := by decide

theorem witness_ExecFormRunsTheCommand :
    let s : State := { idle with pending := hostExec (.sampleLine 622#10) 1 }
    s.eng = .idle ∧ s.inReset = false ∧ WellFormed s.params (.sampleLine 622#10) = true ∧
      s.pending = hostExec (.sampleLine 622#10) 1 := by decide

theorem witness_FlagsPersistUntilAcceptance : ∃ (s t : State), s.eng = .idle ∧ step s = .next t ∧
    flag s.status errIllegalBit = true ∧ (∀ c rest, s.pending ≠ .hostWrite 0x00000#17 c :: rest) ∧
    (∀ rest, s.pending ≠ .assertReset :: rest) ∧ (∀ rest, s.pending ≠ .releaseReset :: rest) :=
  ⟨{ idle with status := 0x102#32, pending := [.hostRead 0x00004#17] }, _, rfl, rfl, by decide,
    fun _ _ h => (by injection h with h; cases h), fun _ h => (by injection h with h; cases h),
    fun _ h => (by injection h with h; cases h)⟩

theorem witness_ZeroScramblerState : tcZero.seed0 = 0#15 ∧ (State.resetWith tcZero).params.seed0 = 0#15 ∧ 98 < 99 ∧
    1#15 ≠ 0#15 ∧ idle.inReset = false ∧ idle.eng = .idle := by decide

theorem witness_ScramblerPeriod : 1#15 ≠ 0#15 ∧ 0x7FFF#15 ≠ 0#15 ∧ 0 < 32766 ∧ 32766 < 32767 ∧ tc1.seed0 ≠ 0#15 := by
  decide

theorem witness_ScramblerRecurrence : 14 ≤ 14 := by decide

theorem witness_SyncWordBits : 5 < 6 := by decide

theorem witness_PacketFields : 9 < 10 ∧ 10 ≤ 11 ∧ 11 < 12 ∧ 90 ≤ 90 ∧ 7 < 8 := by decide

theorem witness_GuardedSample :
    let s := withRaster 13 8 [] idle
    ((0 : Int) ≤ 12 ∧ (12 : Int) < s.width.toNat ∧ (0 : Int) ≤ 7 ∧ (7 : Int) < s.height.toNat) ∧
      s.raster.width = s.width.toNat ∧ s.raster.height = s.height.toNat ∧
      ¬ ((0 : Int) ≤ -1 ∧ (-1 : Int) < s.width.toNat ∧ (0 : Int) ≤ 0 ∧ (0 : Int) < s.height.toNat) ∧
      ¬ ((0 : Int) ≤ 13 ∧ (13 : Int) < s.width.toNat ∧ (0 : Int) ≤ 0 ∧ (0 : Int) < s.height.toNat) := by decide

theorem witness_FindSyncResult : (622#10).toNat < (withRaster 13 623 [] idle).params.l ∧
    rasterStable (withRaster 13 623 [] idle) = true := by decide

theorem witness_OffsetRange :
    (findSync (withRaster 256 8 ([0, 2, 6].map fun x => (rasterKey x 5, 0xFF#8)) idle) 5).found = true ∧
      (findSync (withRaster 13 8 [] idle) 5).found = false ∧ (withRaster 12 8 [] idle).width.toNat ≤ 12 := by
  decide +kernel

theorem witness_ScanStaysInRange : pos (withRaster 13 8 [] idle).params 5 ≤ 12 ∧
    (withRaster 13 8 [] idle).params.row0 + 7 < (withRaster 13 8 [] idle).height.toNat := by decide

theorem witness_FindSyncBelowTheRaster :
    let s := withRaster 13 622 [] idle
    (622#10).toNat < s.params.l ∧ rasterStable s = true ∧ s.height.toNat ≤ s.params.row0 + (622#10).toNat := by decide

theorem witness_SampleLineResult :
    let s := withRaster 13 623 [] idle
    (622#10).toNat < s.params.l ∧ rasterStable s = true ∧ Memory.wf s.bitstream = true := by decide

/-- A line all of whose samples are out of range carries the data equal to the generator's own output. -/
theorem witness_DescramblingIsAnInvolution : ∃ (s : State) (n : Nat) (ofs : Int) (S : Scrambler) (d : Nat → Bit),
    ∀ j, j < 99 → classify (sample s (dataColumn s.params ofs j) (rowOf s.params n)).1 = d j ^^^ scramblerBit S j :=
  ⟨idle, 1, 0, 0x7FFF#15, fun j => scramblerBit 0x7FFF#15 j, fun j _ => by
    have h : inRange idle (dataColumn idle.params 0 j) (rowOf idle.params 1) = false := by
      have hy : decide (rowOf idle.params 1 < idle.height.toNat) = false := by decide
      unfold inRange
      rw [hy, Bool.and_false]
    unfold sample
    rw [if_neg (by rw [h]; decide), BitVec.xor_self]
    decide⟩

theorem witness_MalformedFrameIsRefused :
    (∃ t, 13 ≤ (withRaster 13 623 [] idle).width.toNat ∧
      (withRaster 13 623 [] idle).params.row0 + (withRaster 13 623 [] idle).params.l ≤
        (withRaster 13 623 [] idle).height.toNat ∧ exec .decodeFrame (withRaster 13 623 [] idle) = .next t) ∧
    (withRaster 12 623 [] idle).width.toNat < 13 ∧
    (withRaster 13 622 [] idle).height.toNat <
      (withRaster 13 622 [] idle).params.row0 + (withRaster 13 622 [] idle).params.l :=
  ⟨⟨_, by decide, by decide, rfl⟩, by decide, by decide⟩

theorem witness_DecodeFrameResult :
    let s := withRaster 13 623 [] idle
    13 ≤ s.width.toNat ∧ s.params.row0 + s.params.l ≤ s.height.toNat ∧ rasterStable s = true ∧
      Memory.wf s.bitstream = true ∧ Memory.wf s.lineOfs = true ∧ Memory.wf s.lineFlags = true := by decide

theorem witness_FrameLineEqualsHostSequence : ∃ (s s1 s2 s3 t : State) (n : LineField), malformed s = false ∧
    rasterStable s = true ∧ Memory.wf s.bitstream = true ∧ s.params.z ≤ n.toNat ∧ n.toNat < s.params.l ∧
    exec (.lfsrSeed n) s = .next s1 ∧ exec (.findSync n) s1 = .next s2 ∧ exec (.sampleLine n) s2 = .next s3 ∧
    exec .decodeFrame s = .next t :=
  ⟨withRaster 13 623 [] idle, _, _, _, _, 1#10, by decide, by decide, by decide, by decide, by decide, rfl, rfl, rfl, rfl⟩

theorem witness_LinesAreIndependent : ∃ (s s' t t' : State) (n : Nat), s ≠ s' ∧ s'.params = s.params ∧
    s'.width = s.width ∧ s'.height = s.height ∧ malformed s = false ∧ rasterStable s = true ∧ rasterStable s' = true ∧
    Memory.wf s.bitstream = true ∧ Memory.wf s.lineOfs = true ∧ Memory.wf s.lineFlags = true ∧
    Memory.wf s'.bitstream = true ∧ Memory.wf s'.lineOfs = true ∧ Memory.wf s'.lineFlags = true ∧ n < s.params.l ∧
    (∀ x, x < s.width.toNat → rasterRead s' x (s.params.row0 + n) = rasterRead s x (s.params.row0 + n)) ∧
    exec .decodeFrame s = .next t ∧ exec .decodeFrame s' = .next t' :=
  ⟨withRaster 13 623 [] idle, withRaster 13 623 [(rasterKey 3 5, 0xFF#8)] idle, _, _, 622, by decide, rfl, rfl, rfl,
    by decide, by decide, by decide, by decide, by decide, by decide, by decide, by decide, by decide, by decide,
    by decide, rfl, rfl⟩

theorem witness_FrameIgnoresLineRegisters :
    (∃ s t : State, malformed s = true ∧ rasterStable s = false ∧ exec .decodeFrame s = .next t) ∧
      ∃ s t : State, malformed s = false ∧ rasterStable s = true ∧ exec .decodeFrame s = .next t :=
  ⟨⟨{ idle with disturbed := true }, _, by decide, by decide, rfl⟩, ⟨withRaster 13 623 [] idle, _, by decide, by decide, rfl⟩⟩

theorem witness_BrokenDutiesAffectOnlyTheOutputs :
    let s : State := { withRaster 13 623 [] idle with disturbed := true }
    rasterStable s = false ∧ (622#10).toNat < s.params.l ∧ malformed s = false := by decide

theorem witness_LineOutsideTheFrameIsNotExecuted : idle.params.l ≤ (623#10).toNat ∧
    (Instr.findSync 623#10 = .findSync 623#10 ∨ Instr.findSync 623#10 = .sampleLine 623#10) := by decide

theorem witness_SplitPacketsResult : Memory.wf idle.pkt = true ∧ 81 < 82 ∧ 93 < 94 ∧ 7 < 8 := by decide

theorem witness_InterleaveUndoesTheTranspose : ∃ s t : State, Memory.wf s.pkt = true ∧
    exec .splitPackets s = .next t ∧ 81 < 82 ∧ 750 < 751 := ⟨idle, _, rfl, rfl, by decide, by decide⟩

theorem witness_MisalignedAccessFaults : idle.inReset = false ∧ (0x1FFFF#17).toNat % 4 ≠ 0 ∧ (0x00001#17).toNat % 4 ≠ 0 := by
  decide

theorem witness_ReadsHaveNoSideEffect :
    (∃ s t : State, s.unpolled = true ∧ flag s.status busyBit = false ∧ hostRead 0x00004#17 s = .next t) ∧
      ∃ s t : State, s.unpolled = true ∧ flag s.status busyBit = true ∧ hostRead 0x00008#17 s = .next t :=
  ⟨⟨{ idle with unpolled := true }, _, rfl, by decide, rfl⟩, ⟨flying 0x10000000#32, _, rfl, by decide, rfl⟩⟩

theorem witness_ReadsWhileBusy :
    let s := flying 0x10000000#32
    s.inReset = false ∧ outstanding s = true ∧ (0x00028#17).toNat % 4 = 0 ∧ (0x00028#17).toNat ≤ 0x00028 ∧
      (0x01000#17).toNat % 4 = 0 ∧ 0x01000 ≤ (0x01000#17).toNat ∧ (0x0BFFC#17).toNat < 0x0C000 ∧
      0x10000 ≤ (0x10000#17).toNat := by decide

theorem witness_RegisterReads : idle.inReset = false ∧ outstanding idle = false ∧
    (0x0001026F#32).toNat = idle.params.l + 65536 * idle.params.z ∧ (0x7FFF#32).toNat = idle.params.seed0.toNat ∧
    (0x0008000F#32).toNat = idle.params.n + 65536 * idle.params.d ∧
    (0x00000004#32).toNat = idle.params.ph + 65536 * idle.params.row0 := by decide

theorem witness_WindowReads : idle.inReset = false ∧ outstanding idle = false ∧ (0x01FFC#17).toNat % 4 = 0 ∧
    (0x01FFC#17).toNat = 0x01000 + 4 * 1023 ∧ (0x02FFC#17).toNat = 0x02000 + 4 * 1023 ∧
    (0x03FFC#17).toNat = 0x03000 + 4 * 1023 ∧ (0x07FFC#17).toNat = 0x04000 + 0x3FFC ∧
    (0x0BFFC#17).toNat = 0x08000 + 0x3FFC ∧ (0x1FFFC#17).toNat = 0x10000 + 0xFFFC := by decide

theorem witness_IdleRegisterWrites : idle.inReset = false ∧ idle.eng = .idle := by decide

theorem witness_ReservedAndReadOnlyAddresses : idle.inReset = false ∧
    ((0x0002C#17).toNat % 4 = 0 ∧ 0x0002C ≤ (0x0002C#17).toNat ∧ (0x00FFC#17).toNat < 0x01000) ∧
    (0x0C000 ≤ (0x0C000#17).toNat ∧ (0x0FFFC#17).toNat < 0x10000) ∧ 0x0001C ≤ (0x1FFFC#17).toNat := by decide

theorem witness_ResetAbortsTheCommand :
    ({ flying 0x10000000#32 with pending := [.assertReset, .releaseReset] } : State).pending =
      .assertReset :: .releaseReset :: [] := rfl

theorem witness_ResetValues : (0x01000#17).toNat % 4 = 0 ∧ 0x01000 ≤ (0x01000#17).toNat ∧
    (0x0BFFC#17).toNat % 4 = 0 ∧ (0x0BFFC#17).toNat < 0x0C000 ∧ (0x1FFFC#17).toNat % 4 = 0 ∧
    0x10000 ≤ (0x1FFFC#17).toNat := by decide

theorem witness_HostAndEngineStopInReset : (assertReset (flying 0x10000000#32)).inReset = true ∧
    (assertReset (flying 0x10000000#32)).pending = [] ∧
    (assertReset { flying 0x10000000#32 with pending := [.engineStep] }).inReset = true ∧
    (assertReset { flying 0x10000000#32 with pending := [.engineStep] }).pending = .engineStep :: [] := by decide

theorem witness_ConfigIsConstant : ∃ s t : State, step s = .next t := ⟨flying 0x10000000#32, _, rfl⟩

theorem witness_InvariantIsKept : ∃ s t : State, Inv s ∧ step s = .next t :=
  ⟨_, _, flying_inv, rfl⟩

/-- A raster of the largest extents, and one a column too wide. -/
theorem witness_SuppliedRasterIsSampled :
    (let r : Raster := { width := 65535, height := 65535, cells := [(rasterKey 65534 65534, 0xFF#8)] };
      ({ idle with pending := [.supplyRaster r] } : State).pending = .supplyRaster r :: [] ∧ r.width ≤ 65535 ∧
        r.height ≤ 65535 ∧ Memory.wf (w := 8) r.cells = true ∧ 65534 < r.width ∧ 65534 < r.height ∧
        ({ idle with width := 65535#16, height := 65535#16 } : State).width.toNat = r.width) ∧
    (let r : Raster := { width := 65536, height := 0, cells := [] };
      ({ idle with pending := [.supplyRaster r] } : State).pending = .supplyRaster r :: [] ∧ 65535 < r.width) := by
  decide

/-- `FIND_SYNC 5` in flight on a 13 × 8 raster, to which `r` is about to be presented. -/
def presenting (r : Raster) : State := { withRaster 13 8 [] (flying 0x40000005#32) with pending := [.supplyRaster r] }

/-- A sample of the last row changes; the width changes; nothing changes; a raster already disturbed; an idle engine. -/
theorem witness_RasterChangeInFlightBreaksTheDuty :
    (∃ t, (presenting { width := 13, height := 8, cells := [(rasterKey 12 7, 0xFF#8)] }).eng = .busy 0x40000005#32 ∧
      Memory.wf (w := 8) [(rasterKey 12 7, 0xFF#8)] = true ∧
      step (presenting { width := 13, height := 8, cells := [(rasterKey 12 7, 0xFF#8)] }) = .next t ∧
      12 < 13 ∧ 7 < 8 ∧ Memory.read (w := 8) [(rasterKey 12 7, 0xFF#8)] (65536 * 7 + 12) ≠
        Memory.read (w := 8) (withRaster 13 8 [] idle).raster.cells (65536 * 7 + 12)) ∧
    (∃ t, step (presenting { width := 14, height := 8, cells := [] }) = .next t ∧
      14 ≠ (presenting { width := 14, height := 8, cells := [] }).raster.width) ∧
    (∃ t, step (presenting { width := 13, height := 8, cells := [] }) = .next t ∧
      RasterWf (presenting { width := 13, height := 8, cells := [] }).raster) ∧
    (∃ t, ({ flying 0x10000000#32 with disturbed := true, pending := [.hostRead 0x00004#17] } : State).disturbed = true ∧
      step { flying 0x10000000#32 with disturbed := true, pending := [.hostRead 0x00004#17] } = .next t ∧
      t.eng = .busy 0x10000000#32) ∧
    ∃ t, step { idle with pending := [.supplyRaster { width := 13, height := 8, cells := [] }] } = .next t :=
  ⟨⟨_, rfl, rfl, rfl, by decide, by decide, by decide⟩, ⟨_, rfl, by decide⟩,
    ⟨_, rfl, by decide, by decide, rfl, rfl⟩, ⟨_, rfl, rfl, rfl⟩, ⟨_, rfl⟩⟩

end Sys2Proof.Tests
end

section
/-! PROOFS. The worked encodings (30_encoding.md R54). -/

namespace Sys2Proof

/-- Opcode 0 and the opcodes from 8 on are reserved (30_encoding.md R49 (a)). -/
theorem decode_of_reserved {c : Word} (h : (opField c).toNat = 0 ∨ 8 ≤ (opField c).toNat) :
    decode c = .error (.reservedOpcode (opField c)) := by
  unfold decode
  split
  case h_8 => rfl
  all_goals omega

/-- Opcode 4 is FIND_SYNC of bits 9:0, whatever the ignored bits 27:10 hold (30_encoding.md R47, R48). -/
theorem decode_of_opField_findSync {c : Word} (h : opField c = 4#4) : decode c = .ok (.findSync (nField c)) := by
  simp [decode, h]

/-- Settles O2: the encoder's seven words are evaluated; the other three words go through the decoder's rule for their
opcode, the second one with its operand field read as 0 although bit 10 is set. -/
theorem workedEncodings : Obligations.WorkedEncodings := by
  have opcode_zero : opField 0x00000000#32 = 0#4 := by decide
  have opcode_findSync : opField 0x40000400#32 = 4#4 := by decide
  have operand_findSync : nField 0x40000400#32 = 0#10 := by decide
  have opcode_nine : opField 0x9ABCDEF0#32 = 9#4 := by decide
  refine ⟨rfl, rfl, rfl, rfl, rfl, rfl, rfl, ?_, ?_, ?_⟩
  · rw [decode_of_reserved (by simp [opcode_zero]), opcode_zero]
  · rw [decode_of_opField_findSync opcode_findSync, operand_findSync]
  · rw [decode_of_reserved (by simp [opcode_nine]), opcode_nine]

end Sys2Proof
end

section
/-! PROOFS. The scrambler's output recurrence, its period, and its all-zero state (40_scrambler.md R57 to R59). -/

namespace Sys2Proof.Machine

/-! ## Outputs (40_scrambler.md R58) -/

theorem scramblerBit_eq (S : Scrambler) (t : Nat) :
    scramblerBit S t = BitVec.ofBool ((advanceN t S).getLsbD 0) := advance_output _

/-- `k` advances move bit `i + k` down to bit `i`, as long as no fed-back bit gets there. -/
theorem advanceN_getLsbD {k i : Nat} (h : i + k ≤ 14) (S : Scrambler) :
    (advanceN k S).getLsbD i = S.getLsbD (i + k) := by
  induction k generalizing S with
  | zero => rfl
  | succ k ih =>
    calc (advanceN k (advance S).1).getLsbD i
        = (advance S).1.getLsbD (i + k) := ih (by omega) _
      _ = S.getLsbD (i + k + 1) := by rw [advance_getLsbD, if_pos (by omega)]

/-- Bit `i` of the state before advance `t` is the output `t + i`. -/
theorem scramblerBit_add {i : Nat} (hi : i ≤ 14) (S : Scrambler) (t : Nat) :
    scramblerBit S (t + i) = BitVec.ofBool ((advanceN t S).getLsbD i) := by
  rw [scramblerBit_eq, advanceN_add, advanceN_getLsbD (by omega), Nat.zero_add]

/-- Settles O19: the first part reads the outputs off the state. For the second, output `t + 15` is bit 14 of the state
after advance `t`, which is the bit that this advance fed back. -/
theorem scramblerRecurrence : Obligations.ScramblerRecurrence := by
  intro S t
  refine ⟨fun i hi => scramblerBit_add hi S t, ?_⟩
  calc scramblerBit S (t + 15)
      = BitVec.ofBool ((advanceN (t + 1) S).getLsbD 14) := scramblerBit_add (Nat.le_refl 14) S (t + 1)
    _ = BitVec.ofBool ((advanceN t S).getLsbD 0 ^^ (advanceN t S).getLsbD 14) := by
        rw [advanceN_succ', advance_getLsbD, if_neg (by decide), if_pos rfl]
    _ = scramblerBit S t ^^^ scramblerBit S (t + 14) := by
        rw [← BitVec.ofBool_xor_ofBool, scramblerBit_eq, scramblerBit_add (Nat.le_refl 14)]

/-! ## The zero state (40_scrambler.md R57) -/

@[simp] theorem advance_zero : advance 0#15 = (0#15, 0#1) := by decide

@[simp] theorem advanceN_zero (k : Nat) : advanceN k 0#15 = 0#15 := by
  induction k with
  | zero => rfl
  | succ k ih => rw [advanceN_succ', ih, advance_zero]

@[simp] theorem scramblerBit_zero (t : Nat) : scramblerBit 0#15 t = 0#1 := by simp [scramblerBit]

theorem seed_of_seed0_zero {p : Params} (h : p.seed0 = 0#15) (n : Nat) : seed p n = 0#15 := by simp [seed, h]

/-- A zero state comes from a zero state: bits 1 to 14 are moved down, and bit 0 is fed back XOR bit 14. -/
theorem eq_zero_of_advance_eq_zero {S : Scrambler} (h : (advance S).1 = 0#15) : S = 0#15 := by
  have bits (i : Nat) : (advance S).1.getLsbD i = false := by simp [h]
  have upper (i : Nat) (hi : i < 14) : S.getLsbD (i + 1) = false := by
    have hb := bits i
    rwa [advance_getLsbD, if_pos hi] at hb
  have feedback : (S.getLsbD 0 ^^ S.getLsbD 14) = false := by
    have hb := bits 14
    rwa [advance_getLsbD, if_neg (by decide), if_pos rfl] at hb
  apply BitVec.eq_of_getLsbD_eq
  intro i hi
  cases i with
  | zero =>
    rw [upper 13 (by decide), Bool.xor_false] at feedback
    simpa using feedback
  | succ i => simpa using upper i (by omega)

theorem advance_ne_zero {S : Scrambler} (h : S ≠ 0#15) : (advance S).1 ≠ 0#15 :=
  fun h' => h (eq_zero_of_advance_eq_zero h')

theorem advanceN_ne_zero {S : Scrambler} (h : S ≠ 0#15) (k : Nat) : advanceN k S ≠ 0#15 := by
  induction k with
  | zero => exact h
  | succ k ih => rw [advanceN_succ']; exact advance_ne_zero ih

/-- An idle block stores bits 14:0 of what the host writes to `LFSR` (20_memory.md R37). -/
theorem hostWrite_lfsr_idle {s : State} (hr : s.inReset = false) (he : s.eng = .idle) (v : Word) :
    hostWrite 0x00008#17 v s = .next { s with lfsr := v.setWidth 15 } := by
  have hl : locate 0x00008#17 = .lfsr := by decide
  have ha : aligned 0x00008#17 = true := by decide
  simp [hostWrite, hostAccess_eq hr ha, hl, writeLocation, writeRegister, isBusy, he]

/-- Under the zero seed a line's bits are its classified samples. -/
theorem sampleLine_bit_of_zero (s : State) (n j : Nat) (ofs : Int) (hj : j < 99) :
    (sampleLine s n ofs 0#15).bits[j]? = some (classify (sample s (dataColumn s.params ofs j) (rowOf s.params n)).1) := by
  have hlt : j < (sampleLine s n ofs 0#15).bits.length := by rwa [sampleLine_length]
  rw [List.getElem?_eq_getElem hlt, sampleLine_bit, scramblerBit_zero, BitVec.xor_zero]

/-- Settles O18: the zero state is fixed with output 0, so that every seed after `SEED0 = 0` is 0 and the XOR leaves each
classified sample as it is; a nonzero state stays nonzero because no advance loses information. -/
theorem zeroScramblerState : Obligations.ZeroScramblerState := by
  refine ⟨advance_zero, fun p h n t => ?_, fun s n j ofs h hj => ?_, fun S => advance_ne_zero,
    fun s hr he => hostWrite_lfsr_idle hr he 0#32, { seed0 := 0#15 }, rfl⟩
  · have hs : seed p n = 0#15 := seed_of_seed0_zero h n
    exact ⟨hs, by rw [hs, scramblerBit_zero]⟩
  · rw [seed_of_seed0_zero h]
    exact sampleLine_bit_of_zero s n j ofs hj

/-! ## Jumping ahead

The advance is linear over XOR, and every state is a combination of the states reached from the single bit 14. So
how far `j` advances take that one state says how far they take every state, and a long run is evaluated in a few
jumps. -/

theorem advance_xor (S T : Scrambler) : (advance (S ^^^ T)).1 = (advance S).1 ^^^ (advance T).1 := by
  apply BitVec.eq_of_getLsbD_eq
  intro i _
  rw [BitVec.getLsbD_xor]
  simp only [advance_getLsbD, BitVec.getLsbD_xor]
  split
  · rfl
  · split
    · simp [Bool.xor_left_comm]
    · rfl

theorem advanceN_xor (k : Nat) (S T : Scrambler) : advanceN k (S ^^^ T) = advanceN k S ^^^ advanceN k T := by
  induction k generalizing S T with
  | zero => rfl
  | succ k ih =>
    calc advanceN k (advance (S ^^^ T)).1
        = advanceN k ((advance S).1 ^^^ (advance T).1) := by rw [advance_xor]
      _ = advanceN (k + 1) S ^^^ advanceN (k + 1) T := ih _ _

/-- The state whose advances combine to every state. -/
def bit14 : Scrambler := BitVec.twoPow 15 14

/-- The first `m` bits of `c`, from bit 0 up, taken as coefficients of the powers `m − 1, …, 0` of the advance, applied
to `S`. -/
def combine (c S : Scrambler) : Nat → Scrambler
  | 0 => 0#15
  | m + 1 => (advance (combine c S m)).1 ^^^ (if c.getLsbD m then S else 0#15)

/-- The state `v`, as a combination of the advances of `bit14`, with `bit14` replaced by `S`. -/
def times (v S : Scrambler) : Scrambler := combine (v ^^^ v <<< 1) S 15

theorem advanceN_combine (j m : Nat) (c S : Scrambler) :
    advanceN j (combine c S m) = combine c (advanceN j S) m := by
  induction m with
  | zero => exact advanceN_zero j
  | succ m ih =>
    have comm : advanceN j (advance (combine c S m)).1 = (advance (advanceN j (combine c S m))).1 :=
      advanceN_succ' j (combine c S m)
    have coeff : advanceN j (if c.getLsbD m then S else 0#15) = if c.getLsbD m then advanceN j S else 0#15 := by
      split
      · rfl
      · exact advanceN_zero j
    rw [combine, combine, advanceN_xor, comm, coeff, ih]

theorem getLsbD_coefficient (b : Bool) (S : Scrambler) (i : Nat) :
    (if b then S else 0#15).getLsbD i = (b && S.getLsbD i) := by
  cases b
  · exact BitVec.getLsbD_zero
  · rfl

/-- An advance undoes a shift to the left, except that it feeds bit 14 back. -/
theorem advance_shiftLeft_one (v : Scrambler) :
    (advance (v <<< 1)).1 ^^^ (if (v ^^^ v <<< 1).getLsbD 14 then bit14 else 0#15) = v := by
  have shifted (i : Nat) (hi : i < 14) : (v <<< 1).getLsbD (i + 1) = v.getLsbD i := by
    rw [BitVec.getLsbD_shiftLeft]
    simp [show i + 1 < 15 by omega]
  have empty : (v <<< 1).getLsbD 0 = false := by simp
  apply BitVec.eq_of_getLsbD_eq
  intro i hi
  rw [BitVec.getLsbD_xor, getLsbD_coefficient, advance_getLsbD]
  by_cases hlow : i < 14
  · have hbit : bit14.getLsbD i = false := by simp [bit14, show ¬ 14 = i by omega]
    rw [if_pos hlow, hbit, Bool.and_false, Bool.xor_false, shifted i hlow]
  · obtain rfl : i = 14 := by omega
    have hbit : bit14.getLsbD 14 = true := by decide
    rw [if_neg hlow, if_pos rfl, hbit, Bool.and_true, empty, Bool.false_xor, BitVec.getLsbD_xor, Bool.xor_left_comm,
      Bool.xor_self, Bool.xor_false]

/-- From `bit14` the combination shifts the bits of `v` in from above. -/
theorem combine_bit14 (v : Scrambler) {m : Nat} (hm : m ≤ 15) :
    combine (v ^^^ v <<< 1) bit14 m = v <<< (15 - m) := by
  induction m with
  | zero => exact (BitVec.shiftLeft_eq_zero (Nat.le_refl 15)).symm
  | succ m ih =>
    obtain ⟨k, hk⟩ : ∃ k, m + k = 14 := ⟨14 - m, by omega⟩
    have shift : v <<< (15 - m) = v <<< k <<< 1 := by
      rw [← BitVec.shiftLeft_add, show 15 - m = k + 1 by omega]
    have coeff : (v ^^^ v <<< 1).getLsbD m = (v <<< k ^^^ v <<< k <<< 1).getLsbD 14 := by
      have hc : v <<< k ^^^ v <<< k <<< 1 = (v ^^^ v <<< 1) <<< k := by
        rw [BitVec.shiftLeft_xor_distrib, ← BitVec.shiftLeft_add, ← BitVec.shiftLeft_add, Nat.add_comm]
      rw [hc, BitVec.getLsbD_shiftLeft, show 14 - k = m by omega]
      simp [show ¬ 14 < k by omega]
    rw [combine, ih (by omega), shift, coeff, advance_shiftLeft_one, show 15 - (m + 1) = k by omega]

theorem times_bit14 (v : Scrambler) : times v bit14 = v := by
  rw [times, combine_bit14 v (Nat.le_refl 15)]
  exact BitVec.shiftLeft_zero v

theorem advanceN_eq_times (j : Nat) (v : Scrambler) : advanceN j v = times v (advanceN j bit14) := by
  calc advanceN j v = advanceN j (times v bit14) := by rw [times_bit14]
    _ = times v (advanceN j bit14) := advanceN_combine j 15 _ _

/-- `k` jumps of `j` advances each. -/
theorem advanceN_mul_bit14 {j : Nat} {u : Scrambler} (h : advanceN j bit14 = u) (k : Nat) :
    advanceN (j * k) bit14 = (fun v => times v u)^[k] bit14 := by
  induction k with
  | zero => rfl
  | succ k ih => rw [Nat.mul_succ, advanceN_add, ih, Function.iterate_succ_apply', advanceN_eq_times, h]

/-! ## The period (40_scrambler.md R59) -/

/-- The state after one advance. -/
def nextState (S : Scrambler) : Scrambler := (advance S).1

theorem advanceN_eq_nextState_iterate (k : Nat) (S : Scrambler) : advanceN k S = nextState^[k] S :=
  advanceN_eq_iterate k S

theorem advanceN_151_bit14 : advanceN 151 bit14 = 0x16DC#15 := by decide +kernel

theorem advanceN_217_bit14 : advanceN 217 bit14 = 0x5B36#15 := by decide +kernel

theorem advanceN_1057_bit14 : advanceN 1057 bit14 = 0x4827#15 := by
  rw [advanceN_mul_bit14 advanceN_151_bit14 7]
  decide +kernel

theorem advanceN_4681_bit14 : advanceN 4681 bit14 = 0x41BE#15 := by
  rw [advanceN_mul_bit14 advanceN_151_bit14 31]
  decide +kernel

theorem advanceN_32767_bit14 : advanceN 32767 bit14 = bit14 := by
  rw [advanceN_mul_bit14 advanceN_4681_bit14 7]
  decide +kernel

/-- A divisor of `32767 = 7 · 31 · 151` that is not all of it divides the product of two of the primes. -/
theorem eq_or_dvd_of_dvd_32767 {m : Nat} (h : m ∣ 32767) : m = 32767 ∨ m ∣ 217 ∨ m ∣ 1057 ∨ m ∣ 4681 := by
  obtain ⟨q, hq⟩ := h
  by_cases h1 : q = 1
  · exact .inl (by simpa [h1] using hq.symm)
  · obtain ⟨p, hp, r, rfl⟩ := Nat.exists_prime_and_dvd h1
    have hdvd : p ∣ 7 * 31 * 151 := ⟨m * r, by rw [← mul_left_comm]; exact hq⟩
    have hcases : p = 7 ∨ p = 31 ∨ p = 151 := by
      rw [hp.dvd_mul, hp.dvd_mul, Nat.prime_dvd_prime_iff_eq hp (by norm_num),
        Nat.prime_dvd_prime_iff_eq hp (by norm_num), Nat.prime_dvd_prime_iff_eq hp (by norm_num)] at hdvd
      omega
    obtain rfl | rfl | rfl := hcases
    · exact .inr (.inr (.inr ⟨r, by linarith⟩))
    · exact .inr (.inr (.inl ⟨r, by linarith⟩))
    · exact .inr (.inl ⟨r, by linarith⟩)

theorem isPeriodicPt_nextState_iff (k : Nat) (S : Scrambler) :
    Function.IsPeriodicPt nextState k S ↔ advanceN k S = S := by
  rw [advanceN_eq_nextState_iterate]
  exact Iff.rfl

theorem minimalPeriod_bit14 : Function.minimalPeriod nextState bit14 = 32767 := by
  have returns (k : Nat) : Function.minimalPeriod nextState bit14 ∣ k ↔ advanceN k bit14 = bit14 := by
    rw [← Function.isPeriodicPt_iff_minimalPeriod_dvd, isPeriodicPt_nextState_iff]
  obtain h | h | h | h := eq_or_dvd_of_dvd_32767 ((returns 32767).mpr advanceN_32767_bit14)
  · exact h
  · rw [returns, advanceN_217_bit14] at h
    exact absurd h (by decide)
  · rw [returns, advanceN_1057_bit14] at h
    exact absurd h (by decide)
  · rw [returns, advanceN_4681_bit14] at h
    exact absurd h (by decide)

/-- A nonzero state of period 32767 visits every nonzero state: its first 32767 states are different and nonzero, and
there are no more. -/
theorem exists_advanceN_eq {S T : Scrambler} (hS : S ≠ 0#15) (hp : Function.minimalPeriod nextState S = 32767)
    (hT : T ≠ 0#15) : ∃ k, k < 32767 ∧ advanceN k S = T := by
  have nonzero (U : Scrambler) (hU : U ≠ 0#15) : U.toNat ∈ Finset.Icc 1 32767 := by
    have hpos : U.toNat ≠ 0 := fun h => hU (BitVec.eq_of_toNat_eq h)
    exact Finset.mem_Icc.mpr ⟨Nat.pos_of_ne_zero hpos, Nat.le_of_lt_succ U.isLt⟩
  have inj : Set.InjOn (fun k => (advanceN k S).toNat) (Finset.range 32767) := by
    intro j hj k hk h
    rw [Finset.coe_range, ← hp] at hj hk
    apply Function.iterate_injOn_Iio_minimalPeriod hj hk
    simpa only [advanceN_eq_nextState_iterate, BitVec.toNat_inj] using h
  have surj : Set.SurjOn (fun k => (advanceN k S).toNat) (Finset.range 32767) (Finset.Icc 1 32767) :=
    Finset.surjOn_of_injOn_of_card_le _ (fun k _ => nonzero _ (advanceN_ne_zero hS k)) inj (by simp)
  obtain ⟨k, hk, hkT⟩ := surj (nonzero T hT)
  exact ⟨k, by simpa using hk, BitVec.eq_of_toNat_eq hkT⟩

/-- Every nonzero state has the period of `bit14`, from which it is reached. -/
theorem minimalPeriod_of_ne_zero {S : Scrambler} (hS : S ≠ 0#15) : Function.minimalPeriod nextState S = 32767 := by
  obtain ⟨k, -, rfl⟩ := exists_advanceN_eq (by decide) minimalPeriod_bit14 hS
  have hmem : bit14 ∈ Function.periodicPts nextState :=
    Function.minimalPeriod_pos_iff_mem_periodicPts.mp (by rw [minimalPeriod_bit14]; decide)
  rw [advanceN_eq_nextState_iterate, Function.minimalPeriod_apply_iterate hmem, minimalPeriod_bit14]

theorem advanceN_eq_advanceN_iff {S : Scrambler} (hS : S ≠ 0#15) (j k : Nat) :
    advanceN j S = advanceN k S ↔ j % 32767 = k % 32767 := by
  have hp := minimalPeriod_of_ne_zero hS
  have lt (m : Nat) : m % 32767 < Function.minimalPeriod nextState S := by
    rw [hp]
    exact Nat.mod_lt m (by decide)
  rw [← Function.iterate_eq_iterate_iff_of_lt_minimalPeriod (lt j) (lt k), ← hp,
    Function.iterate_mod_minimalPeriod_eq, Function.iterate_mod_minimalPeriod_eq,
    advanceN_eq_nextState_iterate, advanceN_eq_nextState_iterate]

/-- Settles O20: a nonzero state repeats exactly at the multiples of 32767, and the 648 advances from one line's seed to
the next have no factor in common with 32767. -/
theorem scramblerPeriod : Obligations.ScramblerPeriod := by
  refine ⟨fun S hS => ⟨?_, fun k hpos hlt hk => ?_, fun T => exists_advanceN_eq hS (minimalPeriod_of_ne_zero hS)⟩,
    fun p n m hp => ?_⟩
  · exact (advanceN_eq_advanceN_iff hS 32767 0).mpr rfl
  · have hmod := (advanceN_eq_advanceN_iff hS k 0).mp hk
    omega
  · have coprime : Nat.gcd 32767 648 = 1 := by decide
    calc seed p n = seed p m
        ↔ 648 * n ≡ 648 * m [MOD 32767] := advanceN_eq_advanceN_iff hp (648 * n) (648 * m)
      _ ↔ n ≡ m [MOD 32767] :=
        ⟨Nat.ModEq.cancel_left_of_coprime coprime, Nat.ModEq.mul_left 648⟩

end Sys2Proof.Machine
end

section
/-! PROOFS. The classifier's threshold (41_classifier.md R66). -/

namespace Sys2Proof.Machine

theorem bitValue_eq_one_iff (p : Polarity) : bitValue p = 1#1 ↔ p = .plus := by
  cases p <;> decide

/-- The top band of 41_classifier.md R64 starts at `0xAB`, one above `THR_HIGH`. -/
theorem polarity_eq_plus_iff (v : Byte) : polarity v = .plus ↔ 0xAB ≤ v.toNat := by
  have low : v ≤ Config.thrLow ↔ v.toNat ≤ 0x55 := BitVec.le_def
  have high : v > Config.thrHigh ↔ 0xAA < v.toNat := BitVec.lt_def
  simp only [polarity, low, high]
  split
  case isTrue hlow => exact iff_of_false Polarity.noConfusion (by omega)
  case isFalse hlow =>
    split
    case isTrue hhigh => exact iff_of_true rfl (by omega)
    case isFalse hhigh => exact iff_of_false Polarity.noConfusion (by omega)

/-- Settles O22: of the three polarities only `+1` has the bit 1, and it starts at `0xAB`. -/
theorem classifyThreshold : Obligations.ClassifyThreshold := fun v =>
  ⟨rfl, (bitValue_eq_one_iff (polarity v)).trans (polarity_eq_plus_iff v)⟩

end Sys2Proof.Machine
end

section
/-! PROOFS. The bit grid (42_synchronizer.md R69). -/

namespace Sys2Proof.Machine

theorem denominator_pos (p : Params) : 0 < p.d := by
  obtain ⟨-, ⟨hd, -⟩, -⟩ := p.legal
  exact hd

theorem phase_lt_denominator (p : Params) : p.ph < p.d := by
  obtain ⟨-, -, hph, -⟩ := p.legal
  exact hph

/-- The phase is less than one sample, so bit 0 is read at the first sample of the burst. -/
@[simp] theorem pos_zero (p : Params) : pos p 0 = 0 := by
  rw [pos, Nat.zero_mul, Nat.zero_add, Nat.div_eq_of_lt (phase_lt_denominator p)]

/-- `pos p k` is the exact floor: no error of an earlier bit is in it. -/
theorem pos_floor (p : Params) (k : Nat) :
    p.d * pos p k ≤ k * p.n + p.ph ∧ k * p.n + p.ph < p.d * (pos p k + 1) :=
  ⟨Nat.mul_div_le _ _, Nat.lt_mul_div_succ _ (denominator_pos p)⟩

/-- One bit further adds the whole samples of `N/D`, and one more when the two fractional parts reach a sample. -/
theorem pos_succ (p : Params) (k : Nat) :
    pos p (k + 1) = pos p k + p.n / p.d + if p.d ≤ (k * p.n + p.ph) % p.d + p.n % p.d then 1 else 0 := by
  calc pos p (k + 1) = (k * p.n + p.ph + p.n) / p.d := by rw [pos, Nat.succ_mul, Nat.add_right_comm]
    _ = _ := Nat.add_div (denominator_pos p)

theorem pos_le_pos_succ (p : Params) (k : Nat) : pos p k ≤ pos p (k + 1) := by
  rw [pos_succ, Nat.add_assoc]
  exact Nat.le_add_right _ _

theorem pos_succ_sub_pos (p : Params) (k : Nat) :
    pos p (k + 1) - pos p k = p.n / p.d ∨ pos p (k + 1) - pos p k = p.n / p.d + 1 := by
  rw [pos_succ, Nat.add_assoc, Nat.add_sub_cancel_left]
  split
  case isTrue carry => exact .inr rfl
  case isFalse noCarry => exact .inl rfl

/-- Settles O23: the grid's step is the whole part of `N/D` and the carry of the fractional parts. -/
theorem bitGrid : Obligations.BitGrid := fun p k =>
  ⟨pos_zero p, pos_floor p k, pos_le_pos_succ p k, pos_succ_sub_pos p k⟩

end Sys2Proof.Machine
end

section
/-! PROOFS. The packet fields (45_packets.md R91 to R93). -/

namespace Sys2Proof.Machine

/-- In a concatenation the upper word counts in units of `2^w`, `w` the width of the lower one. -/
theorem toNat_append_eq_add {v w : Nat} (hi : BitVec v) (lo : BitVec w) :
    (hi ++ lo).toNat = lo.toNat + 2 ^ w * hi.toNat := by
  rw [BitVec.toNat_append, ← Nat.shiftLeft_add_eq_or_of_lt lo.isLt, Nat.shiftLeft_eq]
  ring

/-! ## The address (45_packets.md R91) -/

theorem packetAddress_toNat (s : State) (p : Nat) :
    (packetAddress s p).toNat = (pktByte s p 0).toNat + 256 * ((pktByte s p 1).toNat % 4) := by
  rw [packetAddress, toNat_append_eq_add]
  simp

/-- Byte 0 gives the bits below 8, byte 1 the two above. -/
theorem packetAddress_getLsbD (s : State) (p : Nat) {q : Nat} (hq : q < 10) :
    (packetAddress s p).getLsbD q = (pktByte s p (q / 8)).getLsbD (q % 8) := by
  rw [packetAddress, BitVec.getLsbD_append]
  obtain low | high := Nat.lt_or_ge q 8
  · simp [low, Nat.div_eq_of_lt low, Nat.mod_eq_of_lt low]
  · obtain ⟨i, rfl⟩ := Nat.exists_eq_add_of_le high
    have hi : i < 2 := by omega
    have byte : (8 + i) / 8 = 1 := by omega
    have bit : (8 + i) % 8 = i := by omega
    simp [hi, byte, bit]

/-! ## The continuity (45_packets.md R92) -/

theorem packetContinuity_toNat (s : State) (p : Nat) :
    (packetContinuity s p).toNat = (pktByte s p 1).toNat / 4 % 4 := by
  rw [packetContinuity, BitVec.extractLsb'_toNat, Nat.shiftRight_eq_div_pow]

theorem packetContinuity_getLsbD (s : State) (p : Nat) {q : Nat} (hlow : 10 ≤ q) (hhigh : q < 12) :
    (packetContinuity s p).getLsbD (q - 10) = (pktByte s p (q / 8)).getLsbD (q % 8) := by
  obtain ⟨i, rfl⟩ := Nat.exists_eq_add_of_le hlow
  have hi : i < 2 := by omega
  have byte : (10 + i) / 8 = 1 := by omega
  have bit : (10 + i) % 8 = 2 + i := by omega
  simp [packetContinuity, hi, byte, bit]

/-! ## The payload (45_packets.md R93) -/

/-- The two shifted bytes do not overlap, so joining them is a concatenation. -/
theorem ushiftRight_or_shiftLeft_eq_append (x y : Byte) :
    x >>> 7 ||| y <<< 1 = y.extractLsb' 0 7 ++ x.extractLsb' 7 1 := by
  refine BitVec.eq_of_getLsbD_eq fun i hi => ?_
  rw [BitVec.getLsbD_append]
  cases i with
  | zero => simp
  | succ j =>
    have hj : j < 7 := by omega
    have beyond : 8 ≤ 7 + (j + 1) := by omega
    have within : j < 8 := by omega
    simp [hj, hi, BitVec.getLsbD_of_ge x _ beyond, BitVec.getLsbD_eq_getElem within]

theorem payloadByte_eq_append (s : State) (p d : Nat) :
    payloadByte s p d = (pktByte s p (3 + d)).extractLsb' 0 7 ++ (pktByte s p (2 + d)).extractLsb' 7 1 :=
  ushiftRight_or_shiftLeft_eq_append _ _

theorem payloadByte_toNat (s : State) (p d : Nat) :
    (payloadByte s p d).toNat = ((pktByte s p (2 + d)).toNat / 128 + 2 * (pktByte s p (3 + d)).toNat) % 256 := by
  have hlt := (pktByte s p (2 + d)).isLt
  rw [payloadByte_eq_append, toNat_append_eq_add, BitVec.extractLsb'_toNat, BitVec.extractLsb'_toNat,
    Nat.shiftRight_eq_div_pow, Nat.shiftRight_zero]
  omega

/-- Bit 0 is the top bit of byte `2 + d`; bit `j + 1` is bit `j` of the next byte. -/
theorem payloadByte_getLsbD (s : State) (p d : Nat) {t : Nat} (ht : t < 8) :
    (payloadByte s p d).getLsbD t = (pktByte s p ((23 + 8 * d + t) / 8)).getLsbD ((23 + 8 * d + t) % 8) := by
  rw [payloadByte_eq_append, BitVec.getLsbD_append]
  cases t with
  | zero =>
    have byte : (23 + 8 * d) / 8 = 2 + d := by omega
    have bit : (23 + 8 * d) % 8 = 7 := by omega
    simp [byte, bit]
  | succ j =>
    have hj : j < 7 := by omega
    have byte : (23 + 8 * d + (j + 1)) / 8 = 3 + d := by omega
    have bit : (23 + 8 * d + (j + 1)) % 8 = j := by omega
    simp [byte, bit, hj]

/-- Settles O42: each field is a concatenation of parts of two neighbouring bytes, so deinterleaved bit `q` is bit
`q mod 8` of byte `floor(q/8)`. -/
theorem packetFields : Obligations.PacketFields := fun s p =>
  ⟨packetAddress_toNat s p, fun _ hq => packetAddress_getLsbD s p hq,
    packetContinuity_toNat s p, fun _ hlow hhigh => packetContinuity_getLsbD s p hlow hhigh,
    fun d _ => payloadByte_toNat s p d, fun d _ _ ht => payloadByte_getLsbD s p d ht⟩

end Sys2Proof.Machine
end

section
/-! PROOFS. The conditions the block records in STATUS, and the host bus error (60_exceptions.md R97 to R102). -/

namespace Sys2Proof.Machine

/-! ## Host accesses -/

theorem hostAccess_misaligned {a : HostAddr} {act : Location → State → State} {s : State} (hr : s.inReset = false)
    (ha : a.toNat % 4 ≠ 0) : hostAccess a act s = .fault .busError := by
  have hal : ¬ aligned a = true := by rwa [aligned_iff]
  simp [hostAccess, hr, hal]

/-- Settles O43: reads and writes share the check of the address. -/
theorem misalignedAccessFaults : Obligations.MisalignedAccessFaults := fun _ _ _ hr ha =>
  ⟨hostAccess_misaligned hr ha, hostAccess_misaligned hr ha⟩

theorem hostWrite_cmd {s : State} (hr : s.inReset = false) (c : Word) :
    hostWrite 0x00000#17 c s = .next (writeCmd c s) :=
  hostAccess_eq hr (by decide)

theorem hostWrite_cmd_illegal {s : State} {c : Word} (hr : s.inReset = false) (he : s.eng = .idle)
    (hc : legalCommand s.params c = none) : hostWrite 0x00000#17 c s = .next (refuseIllegal (takeWord c s)) := by
  rw [hostWrite_cmd hr]
  obtain ⟨-, refused⟩ | ⟨legal, -⟩ := writeCmd_idle c s he
  · rw [refused]
  · simp [hc] at legal

theorem hostWrite_cmd_legal {s : State} {c : Word} (hr : s.inReset = false) (he : s.eng = .idle)
    (hc : legalCommand s.params c ≠ none) : hostWrite 0x00000#17 c s = .next (launch c (takeWord c s)) := by
  rw [hostWrite_cmd hr]
  obtain ⟨illegal, -⟩ | ⟨-, accepted⟩ := writeCmd_idle c s he
  · exact absurd illegal hc
  · rw [accepted]

theorem not_writable_ite {p : Prop} [Decidable p] {x y : Location} (hx : writable x = false)
    (hy : writable y = false) : writable (if p then x else y) = false := by
  split <;> assumption

/-- The five registers that a host write can change (20_memory.md R36, R37). -/
theorem writable_locate_iff (a : HostAddr) : writable (locate a) = true ↔
    a.toNat = 0x00000 ∨ a.toNat = 0x00008 ∨ a.toNat = 0x0000C ∨ a.toNat = 0x00014 ∨ a.toNat = 0x00018 := by
  constructor
  · intro hw
    by_contra hreg
    obtain ⟨hcmd, hlfsr, hofs, hwidth, hheight⟩ : ¬ a.toNat = 0x00000 ∧ ¬ a.toNat = 0x00008 ∧
      ¬ a.toNat = 0x0000C ∧ ¬ a.toNat = 0x00014 ∧ ¬ a.toNat = 0x00018 := by simpa using hreg
    suffices hn : writable (locate a) = false by simp [hn] at hw
    unfold locate
    dsimp only
    rw [if_neg hcmd, if_neg hlfsr, if_neg hofs, if_neg hwidth, if_neg hheight]
    repeat' apply not_writable_ite
    all_goals rfl
  · have at_register (k : HostAddr) (hk : writable (locate k) = true) (ha : a.toNat = k.toNat) :
        writable (locate a) = true := by rwa [BitVec.eq_of_toNat_eq ha]
    rintro (ha | ha | ha | ha | ha)
    · exact at_register 0x00000#17 (by decide) ha
    · exact at_register 0x00008#17 (by decide) ha
    · exact at_register 0x0000C#17 (by decide) ha
    · exact at_register 0x00014#17 (by decide) ha
    · exact at_register 0x00018#17 (by decide) ha

/-- While a command is in flight (60_exceptions.md R98). -/
theorem hostWrite_busy {s : State} {c : Word} {a : HostAddr} (hr : s.inReset = false) (he : s.eng = .busy c)
    (ha : a.toNat % 4 = 0) (v : Word) :
    hostWrite a v s = .next (if writable (locate a) then raise .busyWrite s else s) := by
  rw [hostWrite, hostAccess_eq hr ((aligned_iff a).mpr ha), writeLocation_busy _ _ _ _ he]

/-! ## An illegal word (60_exceptions.md R97) -/

theorem flag_putFlag_same (st : Word) {k : Nat} (b : Bool) (hk : k < 32) : flag (putFlag st k b) k = b := by
  rw [flag_putFlag st k k b hk, if_pos rfl]

theorem flag_refuseIllegal_takeWord (c : Word) (s : State) (j : Nat) :
    flag (refuseIllegal (takeWord c s)).status j =
      if j = doneBit ∨ j = errIllegalBit then true else if 1 ≤ j ∧ j ≤ 10 then false else flag s.status j := by
  rw [refuseIllegal_status, takeWord_status]
  by_cases hd : j = doneBit
  · rw [hd, flag_putFlag_same _ _ (by decide), if_pos (.inl rfl)]
  · rw [flag_putFlag_other _ _ _ _ hd]
    by_cases hi : j = errIllegalBit
    · rw [hi, flag_putFlag_same _ _ (by decide), if_pos (.inr rfl)]
    · rw [flag_putFlag_other _ _ _ _ hi, flag_clearFlags, if_neg (not_or.mpr ⟨hd, hi⟩)]

/-- Settles O9: the word is stored and refused, and the engine that it leaves idle takes the next legal word. -/
theorem illegalWordIsFlagged : Obligations.IllegalWordIsFlagged := by
  intro s c he hbusy hr hc
  refine ⟨refuseIllegal (takeWord c s), hostWrite_cmd_illegal hr he hc, rfl, he, ?_, ?_, ?_, ?_, ?_,
    rfl, rfl, rfl, rfl, rfl, rfl, rfl, rfl, rfl, ⟨rfl, rfl, rfl, rfl⟩,
    fun c' hc' => ⟨_, hostWrite_cmd_legal hr he hc', rfl⟩⟩
  · rw [flag_refuseIllegal_takeWord, if_neg (by decide), if_neg (by decide), hbusy]
  · rw [flag_refuseIllegal_takeWord, if_pos (.inr rfl)]
  · rw [flag_refuseIllegal_takeWord, if_pos (.inl rfl)]
  · intro k hlow hhigh hd hi
    rw [flag_refuseIllegal_takeWord, if_neg (by simp [hd, hi]), if_pos ⟨hlow, hhigh⟩]
  · intro k hk
    have hother : ¬ (k = doneBit ∨ k = errIllegalBit) := by unfold doneBit errIllegalBit; omega
    rw [flag_refuseIllegal_takeWord, if_neg hother, if_neg (by omega)]

/-! ## The STATUS bits a command leaves -/

theorem SameFlagsBut.of_status_eq {s t : State} (h : t.status = s.status) : SameFlagsBut [] s t :=
  fun _ _ => by rw [h]

theorem SameFlagsBut.mono {ks js : List Nat} {s t : State} (h : SameFlagsBut ks s t) (hsub : ks ⊆ js) :
    SameFlagsBut js s t :=
  fun k hk => h k fun hmem => hk (hsub hmem)

theorem sameFlagsBut_raise (k : Condition) (s : State) : SameFlagsBut [conditionCode k] s (raise k s) := by
  intro j hj
  rw [raise_status, flag_putFlag_other _ _ _ _ (by simpa using hj)]

/-- Completion adds `BUSY` and `DONE` to what the effect wrote (10_state.md R27). -/
theorem SameFlagsBut.complete {ks : List Nat} {s u : State} (h : SameFlagsBut ks s u) :
    SameFlagsBut (busyBit :: doneBit :: ks) s (complete u) := by
  intro j hj
  obtain ⟨hbusy, hdone, hks⟩ : j ≠ busyBit ∧ j ≠ doneBit ∧ j ∉ ks := by simpa using hj
  rw [complete_status, flag_putFlag_other _ _ _ _ hdone, flag_putFlag_other _ _ _ _ hbusy, h j hks]

theorem flag_putSyncFlags_other (st : Word) (f : SyncFlags) {j : Nat}
    (hj : j ∉ [syncFoundBit, syncPatBit, oorBit, syncFailBit]) : flag (putSyncFlags st f) j = flag st j := by
  obtain ⟨hfound, hpat, hoor, hfail⟩ :
      j ≠ syncFoundBit ∧ j ≠ syncPatBit ∧ j ≠ oorBit ∧ j ≠ syncFailBit := by simpa using hj
  rw [putSyncFlags, flag_putFlag_other _ _ _ _ hoor, flag_putFlag_other _ _ _ _ hfail,
    flag_putFlag_other _ _ _ _ hpat, flag_putFlag_other _ _ _ _ hfound]

theorem flag_putFrameFlags_other (st : Word) (fail oor : Bool) {j : Nat} (hj : j ∉ [syncFailBit, oorBit]) :
    flag (putFrameFlags st fail oor) j = flag st j := by
  obtain ⟨hfail, hoor⟩ : j ≠ syncFailBit ∧ j ≠ oorBit := by simpa using hj
  rw [putFrameFlags, flag_putFlag_other _ _ _ _ hoor, flag_putFlag_other _ _ _ _ hfail]

theorem searchLine_sameFlagsBut (n : Nat) (s : State) :
    SameFlagsBut [syncFoundBit, syncPatBit, oorBit, syncFailBit] s (searchLine n s) := by
  intro j hj
  cases hstable : rasterStable s with
  | true => rw [searchLine_stable n s hstable]; exact flag_putSyncFlags_other _ _ hj
  | false => rw [searchLine_broken n s hstable]; exact flag_putSyncFlags_other _ _ hj

theorem storeLine_sameFlagsBut (n : Nat) (s : State) : SameFlagsBut [oorBit] s (storeLine n s) := by
  intro j hj
  have hoor : j ≠ oorBit := by simpa using hj
  cases hstable : rasterStable s with
  | true => rw [storeLine_stable n s hstable, putSampleOutputs_status, flag_putFlag_other _ _ _ _ hoor]
  | false =>
    rw [storeLine_broken n s hstable, putSampleOutputs_status, flag_putFlag_other _ _ _ _ hoor, spendDraws_status]

theorem refuseFrame_sameFlagsBut (s : State) : SameFlagsBut [errMalformedBit] s (refuseFrame s) :=
  sameFlagsBut_raise .malformedInput s

theorem decodeFrame_sameFlagsBut_of_not_malformed {s : State} (hm : malformed s = false) :
    SameFlagsBut [syncFailBit, oorBit] s (decodeFrame s) := by
  intro j hj
  cases hstable : rasterStable s with
  | true => rw [decodeFrame_stable s hm hstable]; exact flag_putFrameFlags_other _ _ _ hj
  | false => rw [decodeFrame_broken s hm hstable]; exact flag_putFrameFlags_other _ _ _ hj

theorem decodeFrame_sameFlagsBut (s : State) :
    SameFlagsBut [syncFailBit, oorBit, errMalformedBit] s (decodeFrame s) := by
  cases hm : malformed s with
  | true => rw [decodeFrame_malformed s hm]; exact (refuseFrame_sameFlagsBut s).mono (by decide)
  | false => exact (decodeFrame_sameFlagsBut_of_not_malformed hm).mono (by decide)

theorem sameFlagsBut_of_completes {ks : List Nat} {i : Instr} {s t u : State} (he : exec i s = .next (complete u))
    (h : exec i s = .next t) (hu : SameFlagsBut ks s u) : SameFlagsBut (busyBit :: doneBit :: ks) s t := by
  rw [he] at h
  cases h
  exact hu.complete

/-- A well-formed command writes no STATUS bit but its own (60_exceptions.md R98). -/
theorem exec_sameFlagsBut {i : Instr} {s t : State} (hi : WellFormed s.params i = true) (h : exec i s = .next t) :
    SameFlagsBut (commandFlags i) s t := by
  cases i with
  | lfsrStep => exact sameFlagsBut_of_completes (exec_lfsrStep s) h (.of_status_eq rfl)
  | lfsrSeed n => exact sameFlagsBut_of_completes (exec_lfsrSeed n s) h (.of_status_eq rfl)
  | classify v => exact sameFlagsBut_of_completes (exec_classify v s) h (.of_status_eq rfl)
  | findSync n =>
    have hn : n.toNat < s.params.l := (lineLegal_iff s n).mp hi
    exact sameFlagsBut_of_completes (exec_findSync n s hn) h (searchLine_sameFlagsBut _ s)
  | sampleLine n =>
    have hn : n.toNat < s.params.l := (lineLegal_iff s n).mp hi
    exact sameFlagsBut_of_completes (exec_sampleLine n s hn) h (storeLine_sameFlagsBut _ s)
  | decodeFrame => exact sameFlagsBut_of_completes (exec_decodeFrame s) h (decodeFrame_sameFlagsBut s)
  | splitPackets => exact sameFlagsBut_of_completes (exec_splitPackets s) h (.of_status_eq rfl)

/-- Only FIND_SYNC and SAMPLE_LINE outside the frame are not well formed, and they are not executed (log 8). -/
theorem exec_of_not_wellFormed {i : Instr} {s : State} (hi : WellFormed s.params i = false) :
    exec i s = .next (abandonIllegal s) := by
  cases i with
  | findSync n => exact exec_findSync_outside n s (by simpa [WellFormed, lineInFrame] using hi)
  | sampleLine n => exact exec_sampleLine_outside n s (by simpa [WellFormed, lineInFrame] using hi)
  | _ => cases hi

/-! ## A write while busy (60_exceptions.md R98) -/

theorem errBusyBit_notMem_commandFlags (i : Instr) : errBusyBit ∉ commandFlags i := by
  cases i <;> simp [commandFlags, errBusyBit, busyBit, doneBit, syncFoundBit, syncPatBit, oorBit, syncFailBit,
    errMalformedBit]

/-- `ERR_BUSY` is no command's own flag. -/
theorem exec_errBusy {i : Instr} {s t : State} (h : exec i s = .next t) :
    flag t.status errBusyBit = flag s.status errBusyBit := by
  cases hi : WellFormed s.params i with
  | true => exact exec_sameFlagsBut hi h _ (errBusyBit_notMem_commandFlags i)
  | false =>
    have kept : SameFlagsBut [busyBit, doneBit, errIllegalBit] s t :=
      sameFlagsBut_of_completes (exec_of_not_wellFormed hi) h (sameFlagsBut_raise .illegalCommand s)
    exact kept errBusyBit (by decide)

/-- Acceptance and refusal alike clear the condition (30_encoding.md R50, 60_exceptions.md R97). -/
theorem writeCmd_idle_errBusy {s : State} (he : s.eng = .idle) (c : Word) :
    flag (writeCmd c s).status errBusyBit = false := by
  obtain ⟨-, refused⟩ | ⟨-, accepted⟩ := writeCmd_idle c s he
  · rw [refused, flag_refuseIllegal_takeWord, if_neg (by decide), if_pos (by decide)]
  · rw [accepted, launch_status, flag_putFlag_other _ _ _ _ (by decide), takeWord_status, flag_clearFlags,
      if_pos (by decide)]

/-- Settles O10: a dropped write only raises the condition, no completion writes its bit, and the `CMD` write of an idle
engine clears it. -/
theorem busyWriteIsDropped : Obligations.BusyWriteIsDropped := by
  refine ⟨fun s c v a he hr => ⟨fun hreg => ?_, fun ha hcmd hlfsr hofs hwidth hheight => ?_⟩,
    fun s t i hset h => (exec_errBusy h).trans hset, fun s t i hi h => exec_sameFlagsBut hi h,
    fun s t c he h => ?_⟩
  · have ha : a.toNat % 4 = 0 := by omega
    refine ⟨raise .busyWrite s, ?_, ?_, sameFlagsBut_raise .busyWrite s, rfl⟩
    · rw [hostWrite_busy hr he ha, if_pos ((writable_locate_iff a).mpr hreg)]
    · exact flag_putFlag_same _ _ (by decide)
  · have hreg : ¬ writable (locate a) = true := by
      rw [writable_locate_iff]
      simp [hcmd, hlfsr, hofs, hwidth, hheight]
    rw [hostWrite_busy hr he ha, if_neg hreg]
  · obtain ⟨hr, -, -⟩ := hostAccess_next h
    rw [hostWrite_cmd hr] at h
    cases h
    exact writeCmd_idle_errBusy he c

/-! ## A malformed raster (44_frame.md R80, 60_exceptions.md R99) -/

theorem malformed_iff (s : State) :
    malformed s = true ↔ s.width.toNat < 13 ∨ s.height.toNat < s.params.row0 + s.params.l := by
  rw [malformed, Bool.or_eq_true, decide_eq_true_iff, decide_eq_true_iff]
  rfl

theorem completed_complete (s : State) : Completed (complete s) := by
  refine ⟨rfl, ?_, ?_⟩
  · rw [complete_status, flag_putFlag_other _ _ _ _ (by decide), flag_putFlag_same _ _ (by decide)]
  · rw [complete_status, flag_putFlag_same _ _ (by decide)]

/-- Settles O32: a refused frame writes its one flag and `RESULT`, any other frame the two flags of its summary. -/
theorem malformedFrameIsRefused : Obligations.MalformedFrameIsRefused := by
  refine ⟨fun s t hwidth hheight h => ?_, fun s hbad => ?_⟩
  · have hm : malformed s = false := by
      rw [Bool.eq_false_iff, ne_eq, malformed_iff]
      omega
    have kept : SameFlagsBut [busyBit, doneBit, syncFailBit, oorBit] s t :=
      sameFlagsBut_of_completes (exec_decodeFrame s) h (decodeFrame_sameFlagsBut_of_not_malformed hm)
    exact kept errMalformedBit (by decide)
  · refine ⟨complete (refuseFrame s), ?_, ?_, rfl, completed_complete _, (refuseFrame_sameFlagsBut s).complete,
      rfl, rfl, ⟨rfl, rfl, rfl, rfl⟩, ⟨rfl, rfl, rfl, rfl, rfl, rfl, rfl, rfl, rfl⟩, rfl⟩
    · rw [exec_decodeFrame, decodeFrame_malformed s ((malformed_iff s).mpr hbad)]
    · have kept : flag (complete (refuseFrame s)).status errMalformedBit =
          flag (refuseFrame s).status errMalformedBit :=
        (SameFlagsBut.of_status_eq rfl).complete _ (by decide)
      rw [kept, refuseFrame_status, flag_putFlag_same _ _ (by decide)]

end Sys2Proof.Machine
end

section
/-! PROOFS. The reset values, and what a window reads of cleared buffers (70_reset_and_hazards.md R112). -/

namespace Sys2Proof.Machine

/-! ## Reads with no command outstanding -/

theorem readLocation_reads {s : State} (ho : outstanding s = false) (l : Location) :
    (readLocation l s).reads = content s l :: s.reads := by
  unfold readLocation
  rw [if_neg (by simp [ho])]
  dsimp only
  split <;> rfl

/-- An aligned read is exact when no command is outstanding (20_memory.md R41). -/
theorem hostRead_exact {s : State} {a : HostAddr} (hr : s.inReset = false) (ho : outstanding s = false)
    (ha : a.toNat % 4 = 0) : ∃ t, hostRead a s = .next t ∧ t.reads = content s (locate a) :: s.reads :=
  ⟨readLocation (locate a) s, hostAccess_eq hr ((aligned_iff a).mpr ha), readLocation_reads ho (locate a)⟩

/-! ## Cleared buffers -/

/-- Every cell of every buffer is 0 (10_state.md R28 to R31). -/
structure BuffersCleared (s : State) : Prop where
  bitstream : s.bitstream = []
  lineOfs : s.lineOfs = []
  lineFlags : s.lineFlags = []
  pkt : s.pkt = []

theorem buffersCleared_resetWith (p : Params) : BuffersCleared (State.resetWith p) := ⟨rfl, rfl, rfl, rfl⟩

section
variable {s : State} (h : BuffersCleared s)
include h

theorem BuffersCleared.streamRead_eq_zero (i : Nat) : streamRead s i = 0#1 := by
  rw [streamRead, h.bitstream, Memory.read_nil]

theorem BuffersCleared.lineOfs_read_eq_zero (n : Nat) : s.lineOfs.read n = 0#32 := by
  rw [h.lineOfs, Memory.read_nil]

theorem BuffersCleared.lineFlags_read_eq_zero (n : Nat) : s.lineFlags.read n = 0#4 := by
  rw [h.lineFlags, Memory.read_nil]

theorem BuffersCleared.pktByte_eq_zero (p b : Nat) : pktByte s p b = 0#8 := by
  rw [pktByte, h.pkt, Memory.read_nil]

/-! Every window shows 0, inside its buffer and past the buffer's end alike (20_memory.md R36). -/

theorem BuffersCleared.lineOfsWord_eq_zero (n : Nat) : lineOfsWord s n = 0#32 := by
  rw [lineOfsWord, h.lineOfs_read_eq_zero, ite_self]

theorem BuffersCleared.lineFlagsWord_eq_zero (n : Nat) : lineFlagsWord s n = 0#32 := by
  rw [lineFlagsWord, h.lineFlags_read_eq_zero, BitVec.setWidth_zero, ite_self]

theorem BuffersCleared.pktHdrWord_eq_zero (p : Nat) : pktHdrWord s p = 0#32 := by
  have haddr : packetAddress s p = 0#10 := by rw [packetAddress, h.pktByte_eq_zero, h.pktByte_eq_zero]; rfl
  have hcont : packetContinuity s p = 0#2 := by rw [packetContinuity, h.pktByte_eq_zero]; rfl
  rw [pktHdrWord, haddr, hcont]
  exact ite_self _

theorem BuffersCleared.pktWindowByte_eq_zero (o : Nat) : pktWindowByte s o = 0#8 := by
  rw [pktWindowByte, h.pktByte_eq_zero, ite_self]

theorem BuffersCleared.payloadWindowByte_eq_zero (o : Nat) : payloadWindowByte s o = 0#8 := by
  have hbyte : payloadByte s (o / 128) (o % 128) = 0#8 := by rw [payloadByte, h.pktByte_eq_zero, h.pktByte_eq_zero]; rfl
  rw [payloadWindowByte, hbyte, ite_self]

theorem BuffersCleared.bitstreamByte_eq_zero (i : Nat) : bitstreamByte s i = 0#8 := by
  simp only [bitstreamByte, h.streamRead_eq_zero, ite_self]
  rfl

end

theorem lanes_eq_zero {byteAt : Nat → Byte} (h : ∀ o, byteAt o = 0#8) (o : Nat) : lanes byteAt o = 0#32 := by
  rw [lanes, h, h, h, h]
  rfl

/-! ## The windows (20_memory.md R36) -/

/-- The locations that show a buffer. -/
def isWindow : Location → Bool
  | .lineOfsWin _ => true
  | .lineFlagsWin _ => true
  | .pktHdrWin _ => true
  | .pktByteWin _ => true
  | .pktPayloadWin _ => true
  | .bitstreamWin _ => true
  | _ => false

theorem BuffersCleared.content_window_eq_zero {s : State} (h : BuffersCleared s) {l : Location}
    (hl : isWindow l = true) : content s l = 0#32 := by
  cases l with
  | lineOfsWin n => exact h.lineOfsWord_eq_zero n
  | lineFlagsWin n => exact h.lineFlagsWord_eq_zero n
  | pktHdrWin p => exact h.pktHdrWord_eq_zero p
  | pktByteWin o => exact lanes_eq_zero h.pktWindowByte_eq_zero o
  | pktPayloadWin o => exact lanes_eq_zero h.payloadWindowByte_eq_zero o
  | bitstreamWin o => exact lanes_eq_zero h.bitstreamByte_eq_zero o
  | _ => cases hl

theorem isWindow_ite {c : Prop} [Decidable c] {x y : Location} (hx : isWindow x = true) (hy : isWindow y = true) :
    isWindow (if c then x else y) = true := by
  split <;> assumption

/-- The windows lie above the registers, with one reserved gap between the packets and the bits. -/
theorem isWindow_locate {a : HostAddr}
    (ha : (0x01000 ≤ a.toNat ∧ a.toNat < 0x0C000) ∨ 0x10000 ≤ a.toNat) : isWindow (locate a) = true := by
  unfold locate
  dsimp only
  iterate 10 rw [if_neg (by omega)]
  iterate 4 apply isWindow_ite rfl
  split
  case isTrue hpayload => rfl
  case isFalse hpayload =>
    rw [if_neg (by omega)]
    rfl

/-! ## Reset -/

@[simp] theorem seed_zero (p : Params) : seed p 0 = p.seed0 := rfl

theorem outstanding_resetWith (p : Params) : outstanding (State.resetWith p) = false := rfl

theorem hostRead_window_resetWith (p : Params) {a : HostAddr} (ha : a.toNat % 4 = 0)
    (hwin : (0x01000 ≤ a.toNat ∧ a.toNat < 0x0C000) ∨ 0x10000 ≤ a.toNat) :
    ∃ t, hostRead a (State.resetWith p) = .next t ∧ t.reads.head? = some 0#32 := by
  obtain ⟨t, hread, hreads⟩ := hostRead_exact (s := State.resetWith p) rfl (outstanding_resetWith p) ha
  refine ⟨t, hread, ?_⟩
  rw [hreads, (buffersCleared_resetWith p).content_window_eq_zero (isWindow_locate hwin), List.head?_cons]

/-- Settles O50: the registers are the fields of `State.resetWith`, the buffers are cleared, and with no command
outstanding a window read shows the buffer. -/
theorem resetValues : Obligations.ResetValues := by
  have cleared : BuffersCleared State.reset := buffersCleared_resetWith Config.params
  exact ⟨rfl, rfl, rfl, (seed_zero _).symm, rfl, rfl, rfl, rfl, rfl, cleared.streamRead_eq_zero,
    cleared.lineOfs_read_eq_zero, cleared.lineFlags_read_eq_zero, cleared.pktByte_eq_zero, fun _ => rfl,
    outstanding_resetWith Config.params,
    fun _ ha hwin => hostRead_window_resetWith Config.params ha hwin⟩

end Sys2Proof.Machine
end

section
/-! PROOFS. The decoder: it reads the opcode and that opcode's operand field, and inverts the encoder
(30_encoding.md R46 to R52). -/

namespace Sys2Proof

/-! ## The decoder, opcode by opcode (30_encoding.md R47) -/

theorem decode_of_opField_lfsrStep {c : Word} (h : opField c = 1#4) : decode c = .ok .lfsrStep := by
  simp [decode, h]

theorem decode_of_opField_lfsrSeed {c : Word} (h : opField c = 2#4) : decode c = .ok (.lfsrSeed (nField c)) := by
  simp [decode, h]

theorem decode_of_opField_classify {c : Word} (h : opField c = 3#4) : decode c = .ok (.classify (vField c)) := by
  simp [decode, h]

theorem decode_of_opField_sampleLine {c : Word} (h : opField c = 5#4) : decode c = .ok (.sampleLine (nField c)) := by
  simp [decode, h]

theorem decode_of_opField_decodeFrame {c : Word} (h : opField c = 6#4) : decode c = .ok .decodeFrame := by
  simp [decode, h]

theorem decode_of_opField_splitPackets {c : Word} (h : opField c = 7#4) : decode c = .ok .splitPackets := by
  simp [decode, h]

/-- The opcode is reserved or that of one of the seven commands (30_encoding.md R47, R49 (a)). -/
theorem opField_cases (c : Word) :
    ((opField c).toNat = 0 ∨ 8 ≤ (opField c).toNat) ∨ opField c = 1#4 ∨ opField c = 2#4 ∨ opField c = 3#4 ∨
      opField c = 4#4 ∨ opField c = 5#4 ∨ opField c = 6#4 ∨ opField c = 7#4 := by
  simp only [← BitVec.toNat_inj, BitVec.toNat_ofNat]
  omega

/-- Settles O1: the encoder's word has the command's opcode and operand in the fields that the decoder reads. -/
theorem decodeReadsBackEncode : Obligations.DecodeReadsBackEncode := by
  intro i
  cases i with
  | lfsrStep => exact decode_of_opField_lfsrStep (opField_commandWord _ _)
  | lfsrSeed n =>
    rw [encode, decode_of_opField_lfsrSeed (opField_commandWord _ _), nField_commandWord]
  | classify v =>
    rw [encode, decode_of_opField_classify (opField_commandWord _ _), vField_commandWord]
  | findSync n =>
    rw [encode, decode_of_opField_findSync (opField_commandWord _ _), nField_commandWord]
  | sampleLine n =>
    rw [encode, decode_of_opField_sampleLine (opField_commandWord _ _), nField_commandWord]
  | decodeFrame => exact decode_of_opField_decodeFrame (opField_commandWord _ _)
  | splitPackets => exact decode_of_opField_splitPackets (opField_commandWord _ _)

/-- Settles O3: nine closed words, each evaluated through the decoder. -/
theorem specWordsDecode : Obligations.SpecWordsDecode := by
  unfold Obligations.SpecWordsDecode
  decide

/-- Settles O6: nine closed lines, each evaluated through the assembler. -/
theorem assemblerSamples : Obligations.AssemblerSamples := by
  unfold Obligations.AssemblerSamples
  decide

/-! ## Legal words (30_encoding.md R48, R49) -/

theorem legalCommand_of_decode_ok {p : Params} {c : Word} {i : Instr} (h : decode c = .ok i) :
    legalCommand p c = if WellFormed p i then some i else none := by
  rw [legalCommand, h]

theorem legalCommand_of_decode_error {p : Params} {c : Word} {e : DecodeError} (h : decode c = .error e) :
    legalCommand p c = none := by
  rw [legalCommand, h]

theorem legalCommand_eq_none_iff {p : Params} {c : Word} {i : Instr} (h : decode c = .ok i) :
    legalCommand p c = none ↔ WellFormed p i = false := by
  rw [legalCommand_of_decode_ok h]
  cases WellFormed p i <;> simp

/-- A word is legal when it decodes to a well-formed command. -/
theorem legalCommand_eq_some_iff {p : Params} {c : Word} {i : Instr} :
    legalCommand p c = some i ↔ decode c = .ok i ∧ WellFormed p i = true := by
  cases hd : decode c with
  | error e => simp [legalCommand_of_decode_error hd]
  | ok j =>
    rw [legalCommand_of_decode_ok hd]
    cases hj : WellFormed p j <;> simp
    case false => rintro rfl; exact hj
    case true => rintro rfl; exact hj

theorem lineInFrame_eq_false_iff {p : Params} {n : LineField} : lineInFrame p n = false ↔ p.l ≤ n.toNat := by
  simp [lineInFrame]

/-- Settles O4: a reserved opcode decodes to no command, and of the seven commands only FIND_SYNC and SAMPLE_LINE can be
ill formed. -/
theorem illegalWordsAreExactly : Obligations.IllegalWordsAreExactly := by
  intro p c
  obtain hres | h | h | h | h | h | h | h := opField_cases c
  · simp only [legalCommand_of_decode_error (decode_of_reserved hres), true_iff]
    omega
  · simp [legalCommand_eq_none_iff (decode_of_opField_lfsrStep h), WellFormed, h]
  · simp [legalCommand_eq_none_iff (decode_of_opField_lfsrSeed h), WellFormed, h]
  · simp [legalCommand_eq_none_iff (decode_of_opField_classify h), WellFormed, h]
  · simp [legalCommand_eq_none_iff (decode_of_opField_findSync h), WellFormed, lineInFrame_eq_false_iff, h]
  · simp [legalCommand_eq_none_iff (decode_of_opField_sampleLine h), WellFormed, lineInFrame_eq_false_iff, h]
  · simp [legalCommand_eq_none_iff (decode_of_opField_decodeFrame h), WellFormed, h]
  · simp [legalCommand_eq_none_iff (decode_of_opField_splitPackets h), WellFormed, h]

/-- The decoder reads the opcode and the operand field of that opcode, and no other bit (30_encoding.md R48). -/
theorem decode_congr {c c' : Word} (hop : opField c = opField c')
    (hn : (opField c = 2#4 ∨ opField c = 4#4 ∨ opField c = 5#4) → nField c = nField c')
    (hv : opField c = 3#4 → vField c = vField c') : decode c' = decode c := by
  obtain hres | h | h | h | h | h | h | h := opField_cases c
  · rw [decode_of_reserved hres, decode_of_reserved (hop ▸ hres), hop]
  · rw [decode_of_opField_lfsrStep h, decode_of_opField_lfsrStep (hop ▸ h)]
  · rw [decode_of_opField_lfsrSeed h, decode_of_opField_lfsrSeed (hop ▸ h), hn (.inl h)]
  · rw [decode_of_opField_classify h, decode_of_opField_classify (hop ▸ h), hv h]
  · rw [decode_of_opField_findSync h, decode_of_opField_findSync (hop ▸ h), hn (.inr (.inl h))]
  · rw [decode_of_opField_sampleLine h, decode_of_opField_sampleLine (hop ▸ h), hn (.inr (.inr h))]
  · rw [decode_of_opField_decodeFrame h, decode_of_opField_decodeFrame (hop ▸ h)]
  · rw [decode_of_opField_splitPackets h, decode_of_opField_splitPackets (hop ▸ h)]

end Sys2Proof
end

section
/-! PROOFS. The invariant: what the operations keep of it, then every command and every step (10_state.md R16, R17, R26
to R31). -/

namespace Sys2Proof.Machine

/-- The part of the invariant that does not speak of the engine: reserved STATUS bits are 0, and every buffer and the
raster are in form. -/
structure StoresWf (s : State) : Prop where
  reserved : StatusReserved s.status
  bitstream : BufferWf s.bitstream (Config.bitsPerLine * s.params.l)
  lineOfs : BufferWf s.lineOfs s.params.l
  lineFlags : BufferWf s.lineFlags s.params.l
  pkt : BufferWf s.pkt (Config.pktsPerFrame * Config.pktBytes)
  raster : RasterWf s.raster

theorem Inv.storesWf {s : State} (h : Inv s) : StoresWf s :=
  ⟨h.reserved, h.bitstream, h.lineOfs, h.lineFlags, h.pkt, h.raster⟩

/-- With no command in flight, the invariant is that of the stores, `BUSY` being 0 and no raster change recorded. -/
theorem Inv.of_idle {s : State} (h : StoresWf s) (he : s.eng = .idle) (hb : flag s.status busyBit = false)
    (hd : s.disturbed = false) : Inv s where
  busy_iff := by rw [hb, isBusy, he]
  in_flight c hc := by rw [he] at hc; cases hc
  reserved := h.reserved
  bitstream := h.bitstream
  lineOfs := h.lineOfs
  lineFlags := h.lineFlags
  pkt := h.pkt
  raster := h.raster
  reset_idle _ := he
  busy_unpolled hbusy := by rw [isBusy, he] at hbusy; cases hbusy
  idle_undisturbed _ := hd

theorem flag_busyBit_of_inv_idle {s : State} (h : Inv s) (he : s.eng = .idle) : flag s.status busyBit = false := by
  rw [h.busy_iff, isBusy, he]

/-! ## Buffers -/

theorem bufferWf_nil {w : Nat} (size : Nat) : BufferWf ([] : Memory w) size := ⟨rfl, rfl⟩

theorem BufferWf.writeRange {w : Nat} {m : Memory w} {size base : Nat} {vs : List (BitVec w)} (h : BufferWf m size)
    (hb : base + vs.length ≤ size) : BufferWf (Memory.writeRange m base vs) size := by
  obtain ⟨hwf, hbelow⟩ := h
  exact ⟨Memory.wf_writeRange vs m base hwf, Memory.below_writeRange vs m base size hbelow hb⟩

theorem BufferWf.writeLineBits {m : Memory 1} {l n : Nat} {bits : List Bit} (h : BufferWf m (Config.bitsPerLine * l))
    (hn : n < l) (hbits : bits.length = 99) : BufferWf (writeLineBits m n bits) (Config.bitsPerLine * l) := by
  refine h.writeRange ?_
  rw [hbits, Config.bitsPerLine]
  omega

theorem BufferWf.splitFrom {pkt : Memory 8} (stream : Memory 1)
    (h : BufferWf pkt (Config.pktsPerFrame * Config.pktBytes)) :
    BufferWf (splitFrom stream Config.pktsPerFrame 0 pkt) (Config.pktsPerFrame * Config.pktBytes) := by
  obtain ⟨hwf, hbelow⟩ := h
  obtain ⟨hwf', -, -⟩ := splitFrom_read stream Config.pktsPerFrame 0 pkt hwf
  exact ⟨hwf', splitFrom_below stream Config.pktsPerFrame 0 _ pkt hbelow (by decide)⟩

theorem rasterWf_normalRaster {r : Raster} (hw : r.width ≤ Config.maxExtent) (hh : r.height ≤ Config.maxExtent) :
    RasterWf (normalRaster r) := by
  have listed : ∀ (cs m : List Host.Cell), (∀ c ∈ cs, inGrid r c.1 = true) → (∀ c ∈ m, inGrid r c.1 = true) →
      ∀ c ∈ cs.foldl (fun m c => Memory.write (w := 8) m c.1 c.2) m, inGrid r c.1 = true := by
    intro cs
    induction cs with
    | nil => exact fun m _ hm => hm
    | cons d cs ih =>
      intro m hcs hm
      refine ih _ (fun c hc => hcs c (List.mem_cons_of_mem _ hc)) fun c hc => ?_
      obtain rfl | hc := Memory.mem_write m d.1 d.2 c hc
      · exact hcs d List.mem_cons_self
      · exact hm c hc
  refine ⟨hw, hh, normalRaster_cells_wf r, List.all_eq_true.mpr ?_⟩
  exact listed _ [] (fun c hc => (List.mem_filter.mp hc).2) (by simp)

/-! ## The commands' effects -/

@[simp] theorem flag_zero (k : Nat) : flag 0#32 k = false := BitVec.getLsbD_zero

theorem statusReserved_zero : StatusReserved 0#32 := by
  unfold StatusReserved
  decide

section
variable {s : State} (h : StoresWf s)
include h

theorem StoresWf.raise (k : Condition) : StoresWf (raise k s) :=
  { h with reserved := statusReserved_raise _ k h.reserved }

theorem StoresWf.complete : StoresWf (complete s) := by
  have done := statusReserved_putFlag _ busyBit false h.reserved (by decide) (by decide) (by decide)
  exact { h with reserved := statusReserved_putFlag _ doneBit true done (by decide) (by decide) (by decide) }

theorem StoresWf.takeWord (c : Word) : StoresWf (takeWord c s) :=
  { h with reserved := statusReserved_clearFlags _ h.reserved }

theorem StoresWf.launch (c : Word) : StoresWf (launch c s) :=
  { h with reserved := statusReserved_putFlag _ _ _ h.reserved (by decide) (by decide) (by decide) }

theorem StoresWf.refuseIllegal : StoresWf (refuseIllegal s) := by
  have raised := h.raise .illegalCommand
  exact { raised with reserved := statusReserved_putFlag _ _ _ raised.reserved (by decide) (by decide) (by decide) }

theorem StoresWf.putSyncOutputs (o : SyncOutputs) : StoresWf (putSyncOutputs o s) :=
  { h with reserved := statusReserved_putSyncFlags _ _ h.reserved }

theorem StoresWf.putSampleOutputs {n : Nat} {o : SampleOutputs} (hn : n < s.params.l) (ho : o.bits.length = 99) :
    StoresWf (putSampleOutputs n o s) :=
  { h with
    reserved := statusReserved_putFlag _ _ _ h.reserved (by decide) (by decide) (by decide)
    bitstream := h.bitstream.writeLineBits hn ho }

theorem StoresWf.putFrameOutputs : StoresWf (putFrameOutputs (frameOutputs s) s) := by
  obtain ⟨bits_wf, bits_below⟩ := h.bitstream
  obtain ⟨ofs_wf, ofs_below⟩ := h.lineOfs
  obtain ⟨flags_wf, flags_below⟩ := h.lineFlags
  have loop := frameOutputs_loop s bits_wf ofs_wf flags_wf
  obtain ⟨bits_below', ofs_below', flags_below'⟩ := frameOutputs_below s bits_below ofs_below flags_below
  exact { h with
    reserved := statusReserved_putFrameFlags _ _ _ h.reserved
    bitstream := ⟨loop.wf_bits, bits_below'⟩
    lineOfs := ⟨loop.wf_ofs, ofs_below'⟩
    lineFlags := ⟨loop.wf_flags, flags_below'⟩ }

theorem StoresWf.putDrawnFrame : StoresWf (putDrawnFrame s) :=
  { h with
    reserved := statusReserved_putFrameFlags _ _ _ h.reserved
    bitstream := h.bitstream.writeRange (by rw [drawnBits_length, Nat.zero_add]; exact le_refl _)
    lineOfs := h.lineOfs.writeRange (by simp)
    lineFlags := h.lineFlags.writeRange (by simp) }

theorem StoresWf.searchLine (n : Nat) : StoresWf (searchLine n s) := by
  cases hstable : rasterStable s with
  | true => rw [searchLine_stable n s hstable]; exact h.putSyncOutputs _
  | false =>
    have spent : StoresWf (spendDraws 3 s) := { h with }
    rw [searchLine_broken n s hstable]
    exact spent.putSyncOutputs _

theorem StoresWf.storeLine {n : Nat} (hn : n < s.params.l) : StoresWf (storeLine n s) := by
  cases hstable : rasterStable s with
  | true => rw [storeLine_stable n s hstable]; exact h.putSampleOutputs hn (sampleLine_length ..)
  | false =>
    have spent : StoresWf (spendDraws 102 s) := { h with }
    rw [storeLine_broken n s hstable]
    exact spent.putSampleOutputs hn (drawnBits_length ..)

theorem StoresWf.decodeFrame : StoresWf (decodeFrame s) := by
  cases hm : malformed s with
  | true => rw [decodeFrame_malformed s hm]; exact { h.raise .malformedInput with }
  | false =>
    cases hstable : rasterStable s with
    | true => rw [decodeFrame_stable s hm hstable]; exact h.putFrameOutputs
    | false => rw [decodeFrame_broken s hm hstable]; exact h.putDrawnFrame

theorem StoresWf.splitPackets : StoresWf (splitPackets s) where
  reserved := h.reserved
  bitstream := h.bitstream
  lineOfs := h.lineOfs
  lineFlags := h.lineFlags
  pkt := by rw [splitPackets_pkt]; exact h.pkt.splitFrom s.bitstream
  raster := h.raster

theorem StoresWf.resetBlock : StoresWf (resetBlock s) where
  reserved := statusReserved_zero
  bitstream := bufferWf_nil _
  lineOfs := bufferWf_nil _
  lineFlags := bufferWf_nil _
  pkt := bufferWf_nil _
  raster := h.raster

/-- Every command keeps the stores in form. -/
theorem StoresWf.exec {i : Instr} {t : State} (ht : exec i s = .next t) : StoresWf t := by
  cases hi : WellFormed s.params i with
  | false =>
    rw [exec_of_not_wellFormed hi] at ht
    cases ht
    exact (h.raise .illegalCommand).complete
  | true =>
    cases i with
    | lfsrStep =>
      rw [exec_lfsrStep] at ht
      cases ht
      exact { h.complete with }
    | lfsrSeed n =>
      rw [exec_lfsrSeed] at ht
      cases ht
      exact { h.complete with }
    | classify v =>
      rw [exec_classify] at ht
      cases ht
      exact { h.complete with }
    | findSync n =>
      rw [exec_findSync n s ((lineLegal_iff s n).mp hi)] at ht
      cases ht
      exact (h.searchLine _).complete
    | sampleLine n =>
      have hn : n.toNat < s.params.l := (lineLegal_iff s n).mp hi
      rw [exec_sampleLine n s hn] at ht
      cases ht
      exact (h.storeLine hn).complete
    | decodeFrame =>
      rw [exec_decodeFrame] at ht
      cases ht
      exact h.decodeFrame.complete
    | splitPackets =>
      rw [exec_splitPackets] at ht
      cases ht
      exact h.splitPackets.complete

end

/-! ## The kinds of step -/

section
variable {s : State} (h : Inv s)
include h

theorem Inv.withPending (rest : List Event) : Inv (withPending rest s) := { h with }

theorem Inv.exec {i : Instr} {t : State} (ht : exec i s = .next t) : Inv t := by
  obtain ⟨u, hu, hidle, hundisturbed, hbusy, -, -⟩ := exec_next i s
  rw [hu] at ht
  cases ht
  exact .of_idle (h.storesWf.exec hu) hidle hbusy hundisturbed

theorem Inv.abandonIllegal : Inv (abandonIllegal s) := by
  obtain ⟨-, hbusy, -⟩ := completed_complete (raise .illegalCommand s)
  exact .of_idle (h.storesWf.raise .illegalCommand).complete rfl hbusy rfl

theorem Inv.raise_busyWrite : Inv (raise .busyWrite s) :=
  { h with
    busy_iff := by rw [raise_status, flag_putFlag_other _ _ _ _ (by decide)]; exact h.busy_iff
    reserved := statusReserved_raise _ _ h.reserved }

/-- An accepted word is legal, and the polling hazard starts with it (30_encoding.md R50). -/
theorem Inv.writeCmd (c : Word) (hr : s.inReset = false) : Inv (writeCmd c s) := by
  cases he : s.eng with
  | busy w => rw [writeCmd_busy c w s he]; exact h.raise_busyWrite
  | idle =>
    have taken := h.storesWf.takeWord c
    obtain ⟨-, refused⟩ | ⟨legal, accepted⟩ := writeCmd_idle c s he
    · rw [refused]
      refine .of_idle taken.refuseIllegal he ?_ (h.idle_undisturbed he)
      rw [flag_refuseIllegal_takeWord, if_neg (by decide), if_neg (by decide)]
      exact flag_busyBit_of_inv_idle h he
    · rw [accepted]
      exact { taken.launch c with
        busy_iff := flag_putFlag_same _ _ (by decide)
        in_flight := fun w hw => by
          rw [launch_eng] at hw
          cases hw
          exact ⟨rfl, legal⟩
        reset_idle := fun hreset => absurd (hr.symm.trans hreset) (by decide)
        busy_unpolled := fun _ => rfl
        idle_undisturbed := fun _ => rfl }

theorem Inv.writeLocation (l : Location) (v : Word) (hr : s.inReset = false) : Inv (writeLocation l v s) := by
  by_cases hl : l = .cmd
  · rw [hl]
    exact h.writeCmd v hr
  · cases he : s.eng with
    | idle =>
      obtain ⟨a, b, x, y, hw⟩ := writeLocation_idle l v s he hl
      rw [hw]
      exact { h with }
    | busy c =>
      rw [writeLocation_busy l v s c he]
      split
      · exact h.raise_busyWrite
      · exact h

/-- A read ends the polling hazard only when it returned BUSY = 0, which an engine at work does not show. -/
theorem Inv.readLocation (l : Location) : Inv (readLocation l s) := by
  have hpoll := readLocation_unpolled l s
  obtain ⟨v, d, u, hread⟩ := readLocation_frame l s
  rw [hread] at hpoll ⊢
  refine { h with busy_unpolled := fun hbusy => ?_ }
  have still : s.unpolled = true := h.busy_unpolled hbusy
  have busy : flag s.status busyBit = true := h.busy_iff.trans hbusy
  simpa [still, busy] using hpoll

theorem Inv.supplyRaster {r : Raster} {t : State} (ht : supplyRaster r s = .next t) : Inv t := by
  obtain ⟨hw, hh, d, hd, rfl⟩ := supplyRaster_next ht
  exact { h with
    raster := rasterWf_normalRaster hw hh
    idle_undisturbed := hd }

theorem Inv.step {t : State} (ht : step s = .next t) : Inv t := by
  cases step_cases ht with
  | waits rest _ _ eq => rw [eq]; exact h.withPending rest
  | runs rest c i _ _ _ _ eq => exact (h.withPending rest).exec eq
  | abandons rest c e _ _ _ _ eq => rw [eq]; exact (h.withPending rest).abandonIllegal
  | reads rest a _ _ _ eq => rw [eq]; exact (h.withPending rest).readLocation _
  | writes rest a v _ out _ eq => rw [eq]; exact (h.withPending rest).writeLocation _ v out
  | asserts rest _ eq =>
    rw [eq]
    exact .of_idle { h.storesWf.resetBlock with } rfl (flag_zero _) rfl
  | releases rest _ eq =>
    rw [eq]
    exact .of_idle { h.storesWf.resetBlock with } rfl (flag_zero _) rfl
  | supplies rest r _ eq => exact (h.withPending rest).supplyRaster eq

end

/-- Settles O54, over what one step can be. -/
theorem invariantIsKept : Obligations.InvariantIsKept := fun _ _ h ht => h.step ht

theorem inv_resetWith (p : Params) : Inv (State.resetWith p) := by
  have stores : StoresWf (State.resetWith p) :=
    ⟨statusReserved_zero, bufferWf_nil _, bufferWf_nil _, bufferWf_nil _, bufferWf_nil _, Nat.zero_le _, Nat.zero_le _,
      rfl, rfl⟩
  exact .of_idle stores rfl (flag_zero _) rfl

/-- Settles O55, for whatever parameters the hardware has. -/
theorem invariantHoldsAtReset : Obligations.InvariantHoldsAtReset := inv_resetWith Config.params

end Sys2Proof.Machine
end

section
/-! PROOFS. Acceptance, protection and reset: what a step can do to a block that is idle, busy or in reset
(10_state.md R26, R27, 30_encoding.md R50, 70_reset_and_hazards.md R111). -/

namespace Sys2Proof.Machine

/-! ## The next event -/

theorem nextTurn_event {s : State} {e : Event} {rest : List Event} (h : s.pending = e :: rest) :
    nextTurn s = eventTurn e (withPending rest s) := by
  unfold nextTurn
  rw [h]

theorem step_hostRead {s : State} {a : HostAddr} {rest : List Event} (h : s.pending = .hostRead a :: rest) :
    step s = hostRead a (withPending rest s) := step_of_turn (nextTurn_event h)

theorem step_hostWrite {s : State} {a : HostAddr} {v : Word} {rest : List Event}
    (h : s.pending = .hostWrite a v :: rest) : step s = hostWrite a v (withPending rest s) :=
  step_of_turn (nextTurn_event h)

theorem step_assertReset {s : State} {rest : List Event} (h : s.pending = .assertReset :: rest) :
    step s = .next (assertReset (withPending rest s)) := step_of_turn (nextTurn_event h)

theorem step_releaseReset {s : State} {rest : List Event} (h : s.pending = .releaseReset :: rest) :
    step s = .next (releaseReset (withPending rest s)) := step_of_turn (nextTurn_event h)

theorem step_supplyRaster {s : State} {r : Raster} {rest : List Event} (h : s.pending = .supplyRaster r :: rest) :
    step s = supplyRaster r (withPending rest s) := step_of_turn (nextTurn_event h)

theorem withPending_self {s : State} {rest : List Event} (h : s.pending = rest) : withPending rest s = s := by
  rw [← h]
  rfl

theorem runSteps_of_step {s t : State} (h : step s = .next t) (k : Nat) : runSteps (k + 1) s = runSteps k t := by
  rw [runSteps, h]

/-! ## The engine's turn (10_state.md R27) -/

theorem step_engine_runs {s : State} {rest : List Event} {c : Word} {i : Instr} (hm : EngineMoves s rest)
    (hr : s.inReset = false) (he : s.eng = .busy c) (hd : decode c = .ok i) :
    step s = exec i (withPending rest s) := by
  refine step_of_command ((nextTurn_engine hm).trans ?_)
  simp [engineTurn, hr, he, hd]

theorem step_engine_abandons {s : State} {rest : List Event} {c : Word} {e : DecodeError} (hm : EngineMoves s rest)
    (hr : s.inReset = false) (he : s.eng = .busy c) (hd : decode c = .error e) :
    step s = .next (abandonIllegal (withPending rest s)) := by
  refine step_of_turn ((nextTurn_engine hm).trans ?_)
  simp [engineTurn, hr, he, hd]

theorem step_engine_waits {s : State} {rest : List Event} (hm : EngineMoves s rest)
    (hw : s.inReset = true ∨ s.eng = .idle) : step s = .next (withPending rest s) := by
  refine step_of_turn ((nextTurn_engine hm).trans ?_)
  obtain hr | he := hw
  · simp [engineTurn, hr]
  · simp [engineTurn, he]

/-- Settles O7: in both clauses the engine is next to move. -/
theorem stepRunsTheCommandInFlight : Obligations.StepRunsTheCommandInFlight := by
  refine fun s c i hr he hd => ⟨fun hp => ?_, fun rest hp => step_engine_runs (.inr hp) hr he hd⟩
  rw [step_engine_runs (.inl ⟨hp, rfl⟩) hr he hd, withPending_self hp]

/-! ## Acceptance (30_encoding.md R50) -/

theorem flag_launch_takeWord (c : Word) (s : State) (j : Nat) :
    flag (launch c (takeWord c s)).status j =
      if j = busyBit then true else if 1 ≤ j ∧ j ≤ 10 then false else flag s.status j := by
  rw [launch_status, takeWord_status]
  by_cases hb : j = busyBit
  · rw [hb, flag_putFlag_same _ _ (by decide), if_pos rfl]
  · rw [flag_putFlag_other _ _ _ _ hb, flag_clearFlags, if_neg hb]

/-- Settles O8: the word is taken, with the flags that this clears, and launched. -/
theorem legalWordIsAccepted : Obligations.LegalWordIsAccepted := by
  intro s c he hr hc
  refine ⟨launch c (takeWord c s), hostWrite_cmd_legal hr he hc, rfl, rfl, ?_, fun k hlow hhigh => ?_, fun k hk => ?_,
    rfl, rfl, rfl, rfl, rfl, rfl, rfl, rfl, rfl, ⟨rfl, rfl, rfl, rfl⟩, hr, rfl, rfl, rfl⟩
  · rw [flag_launch_takeWord, if_pos rfl]
  · have hother : ¬ k = busyBit := by unfold busyBit; omega
    rw [flag_launch_takeWord, if_neg hother, if_pos ⟨hlow, hhigh⟩]
  · have hother : ¬ k = busyBit := by unfold busyBit; omega
    rw [flag_launch_takeWord, if_neg hother, if_neg (by omega)]

/-! ## Steps of an idle block -/

theorem writeCmd_params (c : Word) (s : State) : (writeCmd c s).params = s.params := by
  cases he : s.eng with
  | busy w => rw [writeCmd_busy c w s he]; rfl
  | idle => obtain ⟨-, hw⟩ | ⟨-, hw⟩ := writeCmd_idle c s he <;> rw [hw] <;> rfl

theorem writeLocation_params (l : Location) (v : Word) (s : State) : (writeLocation l v s).params = s.params := by
  cases he : s.eng with
  | busy w =>
    rw [writeLocation_busy l v s w he]
    split <;> rfl
  | idle =>
    by_cases hl : l = .cmd
    · rw [hl]
      exact writeCmd_params v s
    · obtain ⟨a, b, x, y, hw⟩ := writeLocation_idle l v s he hl
      rw [hw]

/-- From an idle block a step leads to a busy one only by the acceptance of a legal word. -/
theorem eng_of_step_idle {s t : State} (he : s.eng = .idle) (h : step s = .next t) :
    t.eng = .idle ∨ ∃ c rest, s.pending = .hostWrite 0x00000#17 c :: rest ∧ s.inReset = false ∧
      (legalCommand s.params c).isSome = true ∧ t.eng = .busy c := by
  cases step_cases h with
  | waits rest _ _ eq => rw [eq]; exact .inl he
  | runs rest c i _ _ busy _ _ => cases he.symm.trans busy
  | abandons rest c e _ _ busy _ _ => cases he.symm.trans busy
  | reads rest a _ _ _ eq =>
    obtain ⟨v, d, u, hread⟩ := readLocation_frame (locate a) (withPending rest s)
    rw [eq, hread]
    exact .inl he
  | writes rest a v head out _ eq =>
    rw [eq]
    by_cases hl : locate a = .cmd
    · obtain rfl := locate_cmd a hl
      rw [hl]
      obtain ⟨-, hw⟩ | ⟨legal, hw⟩ := writeCmd_idle v (withPending rest s) he
      · refine .inl ?_
        show (writeCmd v (withPending rest s)).eng = .idle
        rw [hw]
        exact he
      · refine .inr ⟨v, rest, head, out, legal, ?_⟩
        show (writeCmd v (withPending rest s)).eng = .busy v
        rw [hw]
        rfl
    · obtain ⟨x, b, y, z, hw⟩ := writeLocation_idle (locate a) v (withPending rest s) he hl
      rw [hw]
      exact .inl he
  | asserts rest _ eq => rw [eq]; exact .inl rfl
  | releases rest _ eq => rw [eq]; exact .inl rfl
  | supplies rest r _ eq =>
    obtain ⟨-, -, d, -, rfl⟩ := supplyRaster_next eq
    exact .inl he

/-- Settles O12: the only step that does not keep the engine idle. -/
theorem onlyAcceptanceLaunches : Obligations.OnlyAcceptanceLaunches := by
  intro s t c he h ht
  obtain hidle | ⟨w, rest, hp, hr, legal, hbusy⟩ := eng_of_step_idle he h
  · cases hidle.symm.trans ht
  · cases hbusy.symm.trans ht
    exact ⟨⟨rest, hp⟩, hr, Option.isSome_iff_ne_none.mp legal⟩

/-- While no command is in flight, only a `CMD` write and the edges of reset change STATUS (60_exceptions.md R106). -/
theorem status_of_step_idle {s t : State} (he : s.eng = .idle) (h : step s = .next t)
    (hcmd : ∀ c rest, s.pending ≠ .hostWrite 0x00000#17 c :: rest) (hassert : ∀ rest, s.pending ≠ .assertReset :: rest)
    (hrelease : ∀ rest, s.pending ≠ .releaseReset :: rest) : t.status = s.status := by
  cases step_cases h with
  | waits rest _ _ eq => rw [eq]; rfl
  | runs rest c i _ _ busy _ _ => cases he.symm.trans busy
  | abandons rest c e _ _ busy _ _ => cases he.symm.trans busy
  | reads rest a _ _ _ eq =>
    obtain ⟨v, d, u, hread⟩ := readLocation_frame (locate a) (withPending rest s)
    rw [eq, hread]
    rfl
  | writes rest a v head _ _ eq =>
    have hl : locate a ≠ .cmd := fun hl => hcmd v rest (locate_cmd a hl ▸ head)
    obtain ⟨x, b, y, z, hw⟩ := writeLocation_idle (locate a) v (withPending rest s) he hl
    rw [eq, hw]
    rfl
  | asserts rest head _ => exact absurd head (hassert rest)
  | releases rest head _ => exact absurd head (hrelease rest)
  | supplies rest r _ eq =>
    obtain ⟨-, -, d, -, rfl⟩ := supplyRaster_next eq
    rfl

/-- Settles O15: the whole of STATUS is kept. -/
theorem flagsPersistUntilAcceptance : Obligations.FlagsPersistUntilAcceptance := by
  intro s t k he h hset hcmd hassert hrelease
  rw [status_of_step_idle he h hcmd hassert hrelease, hset]

/-! ## Steps of a busy block (10_state.md R27) -/

/-- A step that leaves a command in flight changes only what the surroundings of the block change: STATUS, by ERR_BUSY,
the raster, and the model's own fields. A recorded raster change stays recorded. -/
theorem step_busy_stays {s t : State} {c c' : Word} (he : s.eng = .busy c) (h : step s = .next t)
    (ht : t.eng = .busy c') :
    ∃ st r p rs n d u, (s.disturbed = true → d = true) ∧ t = { s with
      status := st, raster := r, pending := p, reads := rs, draws := n, disturbed := d, unpolled := u } := by
  cases step_cases h with
  | waits rest _ _ eq => exact ⟨_, _, rest, _, _, _, _, id, eq⟩
  | runs rest w i _ _ _ _ eq =>
    obtain ⟨u, hu, hidle, -⟩ := exec_next i (withPending rest s)
    rw [hu] at eq
    cases eq
    cases hidle.symm.trans ht
  | abandons rest w e _ _ _ _ eq =>
    rw [eq] at ht
    cases ht
  | reads rest a _ _ _ eq =>
    obtain ⟨v, n, u, hread⟩ := readLocation_frame (locate a) (withPending rest s)
    rw [hread] at eq
    exact ⟨_, _, _, _, _, _, _, id, eq⟩
  | writes rest a v _ _ _ eq =>
    rw [writeLocation_busy (locate a) v (withPending rest s) c he] at eq
    split at eq
    · exact ⟨_, _, _, _, _, _, _, id, eq⟩
    · exact ⟨_, _, _, _, _, _, _, id, eq⟩
  | asserts rest _ eq =>
    rw [eq] at ht
    cases ht
  | releases rest _ eq =>
    rw [eq] at ht
    cases ht
  | supplies rest r _ eq =>
    obtain ⟨hw, hh, -⟩ := supplyRaster_next eq
    rw [supplyRaster_eq _ hw hh] at eq
    cases eq
    refine ⟨_, _, _, _, _, _, _, fun hd => ?_, rfl⟩
    simp [isBusy, he, hd]

/-- Settles O11: of what such a step changes the command reads only the raster. -/
theorem commandInFlightIsProtected : Obligations.CommandInFlightIsProtected := by
  intro s t c c' he h ht
  obtain ⟨st, r, p, rs, n, d, u, -, rfl⟩ := step_busy_stays he h ht
  cases he.symm.trans ht
  exact ⟨rfl, rfl, rfl, rfl, rfl, rfl, rfl, rfl, rfl, rfl, rfl⟩

/-! ## The parameters -/

theorem step_params {s t : State} (h : step s = .next t) : t.params = s.params := by
  cases step_cases h with
  | waits rest _ _ eq => rw [eq]; rfl
  | runs rest c i _ _ _ _ eq =>
    obtain ⟨u, hu, -, -, -, -, frame⟩ := exec_next i (withPending rest s)
    rw [hu] at eq
    cases eq
    exact frame.params
  | abandons rest c e _ _ _ _ eq => rw [eq]; rfl
  | reads rest a _ _ _ eq =>
    obtain ⟨v, d, u, hread⟩ := readLocation_frame (locate a) (withPending rest s)
    rw [eq, hread]
    rfl
  | writes rest a v _ _ _ eq => rw [eq]; exact writeLocation_params _ v _
  | asserts rest _ eq => rw [eq]; rfl
  | releases rest _ eq => rw [eq]; rfl
  | supplies rest r _ eq =>
    obtain ⟨-, -, d, -, rfl⟩ := supplyRaster_next eq
    rfl

/-- Settles O53: a CONFIG word is a function of the parameters. -/
theorem configIsConstant : Obligations.ConfigIsConstant := by
  intro s t h
  have hp := step_params h
  refine ⟨hp, fun k => ?_⟩
  show configWord t.params k = configWord s.params k
  rw [hp]

/-! ## Reset (70_reset_and_hazards.md R111) -/

theorem hostAccess_inReset {a : HostAddr} {act : Location → State → State} {s : State} (hr : s.inReset = true) :
    hostAccess a act s = .refused .accessInReset := if_pos hr

/-- Settles O51: the two edges follow each other, and the second leaves the block at its reset values. -/
theorem resetAbortsTheCommand : Obligations.ResetAbortsTheCommand := by
  intro s rest hp
  have hrun : runSteps 2 s =
      .next (releaseReset (withPending rest (assertReset (withPending (.releaseReset :: rest) s)))) := by
    rw [runSteps_of_step (step_assertReset hp), runSteps_of_step (step_releaseReset rfl)]
    rfl
  exact ⟨_, hrun, rfl, rfl, rfl, rfl, rfl, rfl, rfl, rfl, rfl, rfl, rfl, rfl, rfl, rfl, rfl, rfl, rfl, rfl, rfl⟩

/-- Settles O52: the host's access checks reset first, and so does the engine's turn. -/
theorem hostAndEngineStopInReset : Obligations.HostAndEngineStopInReset := by
  refine fun s a v hr => ⟨hostAccess_inReset hr, hostAccess_inReset hr, fun hp => ?_, fun rest hp => ?_⟩
  · rw [step_engine_waits (.inl ⟨hp, rfl⟩) (.inl hr), withPending_self hp]
  · exact step_engine_waits (.inr hp) (.inl hr)

end Sys2Proof.Machine
end

section
/-! PROOFS. What a command does not read: its own word, the events to come, the host's record and the polling hazard;
the ignored bits of a word, `POLL` and `EXEC` follow (30_encoding.md R48, R53). -/

namespace Sys2Proof.Machine

/-! ## Lines of the frame depend on their row -/

section
variable {s s' : State} {n : Nat} (h : SameRow s s' (rowOf s.params n))
include h

theorem lineBitsOf_congr : lineBitsOf s' n = lineBitsOf s n := by
  simp only [lineBitsOf, findSync_congr h, sampleLine_congr h, h.params]

theorem lineOfsOf_congr : lineOfsOf s' n = lineOfsOf s n := by
  simp only [lineOfsOf, findSync_congr h, h.params]

theorem lineOorOf_congr : lineOorOf s' n = lineOorOf s n := by
  simp only [lineOorOf, findSync_congr h, sampleLine_congr h, h.params]

theorem lineFieldOf_congr : lineFieldOf s' n = lineFieldOf s n := by
  simp only [lineFieldOf, lineOorOf_congr h, findSync_congr h, h.params]

theorem lineFailed_congr : lineFailed s' n = lineFailed s n := by
  simp only [lineFailed, findSync_congr h, h.params]

theorem frameLine_congr (f : FrameOutputs) : frameLine s' n f = frameLine s n f := by
  simp only [frameLine_eq, lineBitsOf_congr h, lineOfsOf_congr h, lineFieldOf_congr h, lineFailed_congr h,
    lineOorOf_congr h]

end

theorem frameLines_congr {s s' : State} (h : ∀ y, SameRow s s' y) (m n : Nat) (f : FrameOutputs) :
    frameLines s' m n f = frameLines s m n f := by
  induction m generalizing n f with
  | zero => rfl
  | succ m ih => rw [frameLines, frameLines, frameLine_congr (h _), ih]

/-- The frame's outputs depend on the samples and on the buffers that they replace. -/
theorem frameOutputs_congr {s s' : State} (h : ∀ y, SameRow s s' y) (hb : s'.bitstream = s.bitstream)
    (ho : s'.lineOfs = s.lineOfs) (hg : s'.lineFlags = s.lineFlags) : frameOutputs s' = frameOutputs s := by
  rw [frameOutputs, frameOutputs, frameLines_congr h, (h 0).params, hb, ho, hg]

/-! ## What no command reads -/

/-- `s` with another word in `CMD`, another engine state, other events to come, another record of the host's reads and
another polling hazard. -/
def withContext (c : Word) (e : Engine) (p : List Event) (rs : List Word) (u : Bool) (s : State) : State :=
  { s with cmd := c, eng := e, pending := p, reads := rs, unpolled := u }

section
variable (c : Word) (e : Engine) (p : List Event) (rs : List Word) (u : Bool) (s : State)

theorem withContext_eq_setCmd {e : Engine} {p : List Event} {rs : List Word} {u : Bool} {s : State}
    (he : s.eng = e) (hp : s.pending = p) (hrs : s.reads = rs) (hu : s.unpolled = u) :
    withContext c e p rs u s = { s with cmd := c } := by
  subst he hp hrs hu
  rfl

theorem sameRow_withContext (y : Int) : SameRow s (withContext c e p rs u s) y :=
  sameRow_of_fields (s := s) (s' := withContext c e p rs u s) rfl rfl rfl rfl rfl y

theorem rasterStable_withContext : rasterStable (withContext c e p rs u s) = rasterStable s := rfl

theorem malformed_withContext : malformed (withContext c e p rs u s) = malformed s := rfl

theorem searchLine_withContext (n : Nat) :
    searchLine n (withContext c e p rs u s) = withContext c e p rs u (searchLine n s) := by
  have outputs : syncOutputs (withContext c e p rs u s) n = syncOutputs s n := by
    rw [syncOutputs, syncOutputs, findSync_congr (sameRow_withContext c e p rs u s _)]
  have same := rasterStable_withContext c e p rs u s
  cases hstable : rasterStable s with
  | true => rw [searchLine_stable n s hstable, searchLine_stable n _ (same.trans hstable), outputs]; rfl
  | false => rw [searchLine_broken n s hstable, searchLine_broken n _ (same.trans hstable)]; rfl

theorem putSampleOutputs_withContext (n : Nat) (o : SampleOutputs) :
    putSampleOutputs n o (withContext c e p rs u s) = withContext c e p rs u (putSampleOutputs n o s) := by
  simp only [putSampleOutputs, withContext]

theorem storeLine_withContext (n : Nat) :
    storeLine n (withContext c e p rs u s) = withContext c e p rs u (storeLine n s) := by
  have outputs : sampleOutputs (withContext c e p rs u s) n = sampleOutputs s n := by
    rw [sampleOutputs, sampleOutputs, sampleLine_congr (sameRow_withContext c e p rs u s _)]
    rfl
  have same := rasterStable_withContext c e p rs u s
  cases hstable : rasterStable s with
  | true =>
    rw [storeLine_stable n s hstable, storeLine_stable n _ (same.trans hstable), outputs, putSampleOutputs_withContext]
  | false =>
    rw [storeLine_broken n s hstable, storeLine_broken n _ (same.trans hstable), ← putSampleOutputs_withContext]
    rfl

theorem decodeFrame_withContext :
    decodeFrame (withContext c e p rs u s) = withContext c e p rs u (decodeFrame s) := by
  have outputs : frameOutputs (withContext c e p rs u s) = frameOutputs s :=
    frameOutputs_congr (sameRow_withContext c e p rs u s) rfl rfl rfl
  have sameForm := malformed_withContext c e p rs u s
  have same := rasterStable_withContext c e p rs u s
  cases hm : malformed s with
  | true => rw [decodeFrame_malformed s hm, decodeFrame_malformed _ (sameForm.trans hm)]; rfl
  | false =>
    have hm' := sameForm.trans hm
    cases hstable : rasterStable s with
    | true => rw [decodeFrame_stable s hm hstable, decodeFrame_stable _ hm' (same.trans hstable), outputs]; rfl
    | false => rw [decodeFrame_broken s hm hstable, decodeFrame_broken _ hm' (same.trans hstable)]; rfl

theorem splitPackets_withContext :
    splitPackets (withContext c e p rs u s) = withContext c e p rs u (splitPackets s) := by
  simp only [splitPackets, withContext]

/-- A command's result does not depend on its context, which it leaves as it is but for the engine. -/
theorem exec_withContext {i : Instr} {t : State} (h : exec i s = .next t) :
    exec i (withContext c e p rs u s) = .next (withContext c .idle p rs u t) := by
  cases hi : WellFormed s.params i with
  | false =>
    rw [exec_of_not_wellFormed hi] at h
    cases h
    exact exec_of_not_wellFormed hi
  | true =>
    cases i with
    | lfsrStep =>
      rw [exec_lfsrStep] at h
      cases h
      rfl
    | lfsrSeed n =>
      rw [exec_lfsrSeed] at h
      cases h
      rfl
    | classify v =>
      rw [exec_classify] at h
      cases h
      rfl
    | findSync n =>
      have hn : n.toNat < s.params.l := (lineLegal_iff s n).mp hi
      rw [exec_findSync n s hn] at h
      cases h
      rw [exec_findSync n (withContext c e p rs u s) hn, searchLine_withContext]
      rfl
    | sampleLine n =>
      have hn : n.toNat < s.params.l := (lineLegal_iff s n).mp hi
      rw [exec_sampleLine n s hn] at h
      cases h
      rw [exec_sampleLine n (withContext c e p rs u s) hn, storeLine_withContext]
      rfl
    | decodeFrame =>
      rw [exec_decodeFrame] at h
      cases h
      rw [exec_decodeFrame, decodeFrame_withContext]
      rfl
    | splitPackets =>
      rw [exec_splitPackets] at h
      cases h
      rw [exec_splitPackets, splitPackets_withContext]
      rfl

end

/-! ## Ignored bits (30_encoding.md R48) -/

theorem runSteps_one (s : State) : runSteps 1 s = step s := by
  cases h : step s <;> simp [runSteps, h]

section
variable {s : State} {c : Word} (he : s.eng = .idle) (hr : s.inReset = false)
  (hp : s.pending = [.hostWrite 0#17 c, .engineStep])
include he hr hp

/-- An illegal word written to an idle block leaves nothing for the engine's move after it. -/
theorem runSteps_issue_illegal (hc : legalCommand s.params c = none) :
    runSteps 2 s = .next (withPending [] (refuseIllegal (takeWord c s))) := by
  have hwrite := step_hostWrite hp
  rw [hostWrite_cmd_illegal (s := withPending [.engineStep] s) hr he hc] at hwrite
  rw [runSteps_of_step hwrite, runSteps_one]
  exact step_engine_waits (s := refuseIllegal (takeWord c (withPending [.engineStep] s))) (.inr rfl) (.inr he)

/-- A legal word written to an idle block is completed by the engine's move after it. -/
theorem runSteps_issue_legal {i : Instr} (hc : legalCommand s.params c = some i) :
    runSteps 2 s = exec i (withPending [] (launch c (takeWord c s))) := by
  obtain ⟨hd, -⟩ := legalCommand_eq_some_iff.mp hc
  have hwrite := step_hostWrite hp
  rw [hostWrite_cmd_legal (s := withPending [.engineStep] s) hr he
    (Option.ne_none_iff_exists'.mpr ⟨i, hc⟩)] at hwrite
  rw [runSteps_of_step hwrite, runSteps_one]
  exact step_engine_runs (s := launch c (takeWord c (withPending [.engineStep] s))) (.inr rfl) hr rfl hd

end

/-- Settles O5: the two words decode alike, and the command that they both are does not read `CMD`. -/
theorem ignoredBitsHaveNoEffect : Obligations.IgnoredBitsHaveNoEffect := by
  intro s t t' c c' hop hn hv he hr _ _ hp h h'
  have same : legalCommand s.params c' = legalCommand s.params c := by
    rw [legalCommand, legalCommand, decode_congr hop hn hv]
  cases hc : legalCommand s.params c with
  | none =>
    rw [runSteps_issue_illegal he hr hp hc] at h
    have illegal := runSteps_issue_illegal (s := { s with pending := [.hostWrite 0#17 c', .engineStep] }) he hr rfl
      (same.trans hc)
    rw [illegal] at h'
    cases h
    cases h'
    rfl
  | some i =>
    rw [runSteps_issue_legal he hr hp hc] at h
    have legal := runSteps_issue_legal (s := { s with pending := [.hostWrite 0#17 c', .engineStep] }) he hr rfl
      (same.trans hc)
    obtain ⟨u, hu, hidle, -, -, -, frame⟩ := exec_next i (withPending [] (launch c (takeWord c s)))
    rw [hu] at h
    cases h
    have other := exec_withContext c' (.busy c') [] s.reads true (withPending [] (launch c (takeWord c s))) hu
    have eq : t' = withContext c' .idle [] s.reads true t := Host.Outcome.next.inj (h'.symm.trans (legal.trans other))
    exact eq.trans (withContext_eq_setCmd c' hidle frame.pending frame.reads frame.unpolled)

/-! ## `POLL` (30_encoding.md R53) -/

/-- A STATUS read is exact, and ends the polling hazard when it returns BUSY = 0. -/
theorem hostRead_status {s : State} (hr : s.inReset = false) :
    hostRead 0x00004#17 s = .next { s with
      reads := s.status :: s.reads
      unpolled := if flag s.status busyBit = false then false else s.unpolled } := by
  have hl : locate 0x00004#17 = .status := (locate_status _).mpr rfl
  rw [hostRead, hostAccess_eq hr (by decide), hl]
  by_cases hb : flag s.status busyBit = false
  · simp [readLocation, volatile, record, content, hb]
  · simp [readLocation, volatile, record, content, hb]

/-- `k` polls return the STATUS that stands, `k` times. -/
theorem runSteps_polls (k m : Nat) {s : State} {rest : List Event} (hr : s.inReset = false)
    (hp : s.pending = List.replicate k (.hostRead 0x00004#17) ++ rest) :
    ∃ u, runSteps (k + m) s =
      runSteps m { s with pending := rest, reads := List.replicate k s.status ++ s.reads, unpolled := u } := by
  induction k generalizing s with
  | zero =>
    refine ⟨s.unpolled, ?_⟩
    rw [Nat.zero_add]
    exact congrArg (runSteps m) (withPending_self hp).symm
  | succ k ih =>
    have hread := (step_hostRead hp).trans (hostRead_status hr)
    obtain ⟨u, hu⟩ := ih (s := { withPending (List.replicate k (.hostRead 0x00004#17) ++ rest) s with
      reads := s.status :: s.reads
      unpolled := if flag s.status busyBit = false then false else s.unpolled }) hr rfl
    refine ⟨u, ?_⟩
    rw [Nat.add_right_comm, runSteps_of_step hread]
    refine hu.trans ?_
    rw [List.replicate_succ', List.append_assoc]
    rfl

/-- The poll that ends the loop. -/
theorem step_lastPoll {s : State} {rest : List Event} (hr : s.inReset = false)
    (hp : s.pending = .hostRead 0x00004#17 :: rest) (hb : flag s.status busyBit = false) :
    step s = .next { s with pending := rest, reads := s.status :: s.reads, unpolled := false } := by
  rw [step_hostRead hp, hostRead_status (s := withPending rest s) hr]
  simp [withPending, hb]

/-- With a command in flight the engine's move completes it, whatever its word. -/
theorem step_engine_completes {s : State} {rest : List Event} {c : Word} (hm : EngineMoves s rest)
    (hr : s.inReset = false) (he : s.eng = .busy c) :
    ∃ t, step s = .next t ∧ Completed t ∧ EffectFrame (withPending rest s) t := by
  cases hd : decode c with
  | ok i =>
    obtain ⟨t, ht, hidle, -, hbusy, hdone, frame⟩ := exec_next i (withPending rest s)
    exact ⟨t, (step_engine_runs hm hr he hd).trans ht, ⟨hidle, hbusy, hdone⟩, frame⟩
  | error e =>
    exact ⟨_, step_engine_abandons hm hr he hd, completed_complete _, ⟨rfl, rfl, rfl, rfl, rfl, rfl, rfl, rfl, rfl⟩⟩

/-- Settles O13: the polls before the engine's move return the STATUS that stands, the one after it returns BUSY = 0. -/
theorem pollingEndsTheCommand : Obligations.PollingEndsTheCommand := by
  intro s c k he hr hp
  obtain ⟨u, hpolls⟩ := runSteps_polls k 2 hr hp
  obtain ⟨t, hstep, ⟨hidle, hbusy, hdone⟩, frame⟩ := step_engine_completes
    (s := { s with pending := [.engineStep, .hostRead 0x00004#17], reads := List.replicate k s.status ++ s.reads,
                   unpolled := u }) (.inr rfl) hr he
  have hlast := step_lastPoll (frame.inReset.trans hr) frame.pending hbusy
  have hreads : t.reads = List.replicate k s.status ++ s.reads := frame.reads
  refine ⟨_, t.status, List.replicate k s.status, hpolls.trans ((runSteps_of_step hstep 1).trans
    ((runSteps_one t).trans hlast)), hidle, rfl, rfl, ?_, hbusy, hdone, List.length_replicate, fun hinv w hw => ?_⟩
  · rw [hreads]
  · rw [List.eq_of_mem_replicate hw, hinv.busy_iff, isBusy, he]

/-! ## `EXEC` (30_encoding.md R53) -/

/-- A poll of a command in flight runs it, and leaves what the command alone leaves but for the context. -/
theorem runSteps_poll_command {s u : State} {c : Word} {i : Instr} {k : Nat} (hr : s.inReset = false)
    (he : s.eng = .busy c) (hd : decode c = .ok i) (hp : s.pending = hostPoll k) (hu : exec i s = .next u) :
    runSteps (k + 2) s =
      .next (withContext s.cmd .idle [] (u.status :: (List.replicate k s.status ++ s.reads)) false u) := by
  obtain ⟨t, ht, -, -, hbusy, -, frame⟩ := exec_next i s
  cases hu.symm.trans ht
  obtain ⟨v, hpolls⟩ := runSteps_polls k 2 hr hp
  have hrun := exec_withContext s.cmd s.eng [.hostRead 0x00004#17] (List.replicate k s.status ++ s.reads) v s hu
  have hengine := step_engine_runs (s := { s with
    pending := [.engineStep, .hostRead 0x00004#17]
    reads := List.replicate k s.status ++ s.reads
    unpolled := v }) (.inr rfl) hr he hd
  have hlast := step_lastPoll (s := withContext s.cmd .idle [.hostRead 0x00004#17]
    (List.replicate k s.status ++ s.reads) v u) (frame.inReset.trans hr) rfl hbusy
  calc runSteps (k + 2) s
      = runSteps 2 _ := hpolls
    _ = runSteps 1 _ := runSteps_of_step (hengine.trans hrun) 1
    _ = _ := (runSteps_one _).trans hlast

/-- Settles O14: the accepted state with the polls to come differs only in its context from the accepted state. -/
theorem execFormRunsTheCommand : Obligations.ExecFormRunsTheCommand := by
  intro s i k he hr hi hp
  have hd : decode (encode i) = .ok i := decodeReadsBackEncode i
  have legal : legalCommand s.params (encode i) ≠ none := by
    rw [legalCommand_eq_some_iff.mpr ⟨hd, hi⟩]
    exact Option.some_ne_none i
  have hwrite := (step_hostWrite hp).trans (hostWrite_cmd_legal hr he legal)
  obtain ⟨u, hu, hidle, -, -, -, frame⟩ := exec_next i (launch (encode i) (takeWord (encode i) s))
  have hu' := exec_withContext (encode i) (.busy (encode i)) (hostPoll k) s.reads true _ hu
  have hpoll := runSteps_poll_command
    (s := launch (encode i) (takeWord (encode i) (withPending (hostPoll k) s))) hr rfl hd rfl hu'
  refine ⟨_, u, _, List.replicate k (launch (encode i) (takeWord (encode i) s)).status,
    hostWrite_cmd_legal hr he legal, hu, (runSteps_of_step hwrite (k + 2)).trans hpoll,
    ⟨frame.cmd.symm, rfl, rfl, rfl, rfl, rfl, rfl, hidle.symm, rfl, rfl, rfl, rfl⟩, rfl, rfl, rfl, rfl,
    List.length_replicate, fun w hw => ?_⟩
  rw [List.eq_of_mem_replicate hw, flag_launch_takeWord, if_pos rfl]

end Sys2Proof.Machine
end

section
/-! PROOFS. The commands that read no raster: the scrambler's two, the classifier's, and a line index outside the frame
(40_scrambler.md R62, R63, 41_classifier.md R67, log 8). -/

namespace Sys2Proof.Machine

theorem EffectFrame.sameSurroundings {s t : State} (h : EffectFrame s t) : SameSurroundings s t :=
  ⟨h.params, h.cmd, h.width, h.height, h.raster, h.inReset, h.pending, h.reads, h.unpolled⟩

/-- Whatever the command, its completion leaves the surroundings alone (10_state.md R27). -/
theorem sameSurroundings_of_exec {i : Instr} {s t : State} (h : exec i s = .next t) : SameSurroundings s t := by
  obtain ⟨u, hu, -, -, -, -, frame⟩ := exec_next i s
  cases h.symm.trans hu
  exact frame.sameSurroundings

/-- A command that writes registers only changes no STATUS bit but `BUSY` and `DONE`. -/
theorem sameFlagsBut_complete_of_status_eq {s u : State} (h : u.status = s.status) :
    SameFlagsBut [busyBit, doneBit] s (complete u) :=
  (SameFlagsBut.of_status_eq h).complete

/-! ## The scrambler (40_scrambler.md R62, R63) -/

/-- The bit shifted out, as a word. -/
theorem advance_output_setWidth (S : Scrambler) :
    (advance S).2.setWidth 32 = if S.getLsbD 0 then 1#32 else 0#32 := by
  rw [advance_output]
  cases S.getLsbD 0 <;> rfl

/-- Settles O16: one advance, read bit by bit. -/
theorem lfsrStepResult : Obligations.LfsrStepResult := fun s =>
  ⟨complete (stepScrambler s), exec_lfsrStep s, fun i hi => (advance_getLsbD s.lfsr i).trans (if_pos hi),
    advance_getLsbD s.lfsr 14, advance_output_setWidth s.lfsr, completed_complete _,
    sameFlagsBut_complete_of_status_eq rfl, rfl, ⟨rfl, rfl, rfl, rfl⟩, sameSurroundings_of_exec (exec_lfsrStep s), rfl⟩

/-- Settles O17: the seed of line `n` is the iterate of one advance. -/
theorem lfsrSeedResult : Obligations.LfsrSeedResult := fun s n =>
  ⟨complete (loadSeed n.toNat s), exec_lfsrSeed n s, advanceN_eq_iterate _ _, rfl, completed_complete _,
    sameFlagsBut_complete_of_status_eq rfl, rfl, ⟨rfl, rfl, rfl, rfl⟩, sameSurroundings_of_exec (exec_lfsrSeed n s),
    rfl⟩

/-! ## The classifier (41_classifier.md R64, R67) -/

theorem polarity_eq_ite (v : Byte) :
    polarity v = if v.toNat ≤ 0x55 then .minus else if v.toNat ≤ 0xAA then .zero else .plus := by
  have low : v ≤ Config.thrLow ↔ v.toNat ≤ 0x55 := BitVec.le_def
  have high : v > Config.thrHigh ↔ ¬ v.toNat ≤ 0xAA := BitVec.lt_def.trans Nat.not_le.symm
  simp only [polarity, low, high, ite_not]

/-- The three results, one per polarity. -/
theorem classifyResult_eq_ite (v : Byte) : classifyResult v =
    if v.toNat ≤ 0x55 then 0x00000003#32 else if v.toNat ≤ 0xAA then 0x00000000#32 else 0x00000101#32 := by
  rw [classifyResult, polarity_eq_ite]
  split
  case isTrue low => rfl
  case isFalse low =>
    split
    case isTrue middle => rfl
    case isFalse high => rfl

/-- Settles O21: the result is that of the band the intensity lies in. (The model's own `classifyResult` has the name
that this theorem would take.) -/
theorem classifyResultHolds : Obligations.ClassifyResult := fun s v =>
  ⟨complete (putResult (classifyResult v) s), exec_classify v s, classifyResult_eq_ite v, completed_complete _,
    sameFlagsBut_complete_of_status_eq rfl, rfl, rfl, ⟨rfl, rfl, rfl, rfl⟩,
    sameSurroundings_of_exec (exec_classify v s), rfl⟩

/-! ## A line index outside the frame (log 8) -/

theorem flag_abandonIllegal_errIllegalBit (s : State) : flag (abandonIllegal s).status errIllegalBit = true := by
  rw [abandonIllegal_status, flag_putFlag_other _ _ _ _ (by decide), flag_putFlag_other _ _ _ _ (by decide),
    flag_putFlag_same _ _ (by decide)]

/-- Settles O38: both commands are abandoned. -/
theorem lineOutsideTheFrameIsNotExecuted : Obligations.LineOutsideTheFrameIsNotExecuted := by
  intro s n i hn hi
  have abandoned : exec i s = .next (abandonIllegal s) := by
    obtain rfl | rfl := hi
    · exact exec_findSync_outside n s hn
    · exact exec_sampleLine_outside n s hn
  exact ⟨abandonIllegal s, abandoned, completed_complete _, flag_abandonIllegal_errIllegalBit s,
    (sameFlagsBut_raise .illegalCommand s).complete, rfl, rfl, rfl, ⟨rfl, rfl, rfl, rfl⟩,
    sameSurroundings_of_exec abandoned, rfl⟩

end Sys2Proof.Machine
end

section
/-! PROOFS. The raster port: the guarded read, and what the supplier presents (20_memory.md R34, R40,
42_synchronizer.md R70, 70_reset_and_hazards.md R117). -/

namespace Sys2Proof.Machine

/-! ## The guarded read (42_synchronizer.md R70) -/

theorem inRange_iff (s : State) (x y : Int) :
    inRange s x y = true ↔ 0 ≤ x ∧ x < s.width.toNat ∧ 0 ≤ y ∧ y < s.height.toNat := by
  simp [inRange, and_assoc]

theorem sample_of_inRange {s : State} {x y : Int} (h : inRange s x y = true) :
    sample s x y = (rasterRead s x.toNat y.toNat, 0) := if_pos h

theorem sample_of_not_inRange {s : State} {x y : Int} (h : inRange s x y = false) : sample s x y = (0x00#8, 1) :=
  if_neg (by simp [h])

theorem rasterRead_of_inGrid {s : State} {x y : Nat} (hx : x < s.raster.width) (hy : y < s.raster.height) :
    rasterRead s x y = Memory.read (w := 8) s.raster.cells (65536 * y + x) := if_pos ⟨hx, hy⟩

/-- Settles O24: inside `WIDTH × HEIGHT` the position is inside the supplier's grid. -/
theorem guardedSample : Obligations.GuardedSample := by
  refine fun s x y => ⟨fun h hw hh => ?_, fun h => ?_⟩
  · rw [sample_of_inRange ((inRange_iff s x y).mpr h), rasterRead_of_inGrid (by omega) (by omega)]
  · exact sample_of_not_inRange (Bool.eq_false_iff.mpr ((inRange_iff s x y).not.mpr h))

/-! ## The supplier -/

theorem rasterStable_iff (s : State) : rasterStable s = true ↔
    s.disturbed = false ∧ s.width.toNat = s.raster.width ∧ s.height.toNat = s.raster.height := by
  simp [rasterStable, and_assoc]

theorem rasterStable_of_disturbed {s : State} (h : s.disturbed = true) : rasterStable s = false := by
  simp [rasterStable, h]

/-- Inside its grid a raster reads as the supplier listed it. -/
theorem normalRaster_read_inside {r : Raster} (hr : Memory.wf (w := 8) r.cells = true)
    (hw : r.width ≤ Config.maxExtent) {x y : Nat} (hx : x < r.width) (hy : y < r.height) :
    Memory.read (w := 8) (normalRaster r).cells (65536 * y + x) =
      Memory.read (w := 8) r.cells (65536 * y + x) := by
  exact (normalRaster_read r hr _).trans (if_pos (inGrid_key r x y hw hx hy))

section
variable {t : State} {r : Raster} (ht : t.raster = normalRaster r) (hr : Memory.wf (w := 8) r.cells = true)
  (hw : r.width ≤ Config.maxExtent) {x y : Nat} (hx : x < r.width) (hy : y < r.height)
include ht hr hw hx hy

theorem rasterRead_of_supplied : rasterRead t x y = Memory.read (w := 8) r.cells (65536 * y + x) := by
  rw [rasterRead_of_inGrid (by rw [ht]; exact hx) (by rw [ht]; exact hy), ht, normalRaster_read_inside hr hw hx hy]

theorem sample_of_supplied (hwidth : t.width.toNat = r.width) (hheight : t.height.toNat = r.height) :
    sample t x y = (Memory.read (w := 8) r.cells (65536 * y + x), 0) := by
  have inside : inRange t x y = true := (inRange_iff t x y).mpr (by omega)
  rw [sample_of_inRange inside, Int.toNat_natCast, Int.toNat_natCast, rasterRead_of_supplied ht hr hw hx hy]

end

/-- Settles O56: the presented raster is stored, and the port reads what is stored. -/
theorem suppliedRasterIsSampled : Obligations.SuppliedRasterIsSampled := by
  intro s r rest hp
  refine ⟨fun hlarge => (step_supplyRaster hp).trans (supplyRaster_refused _ hlarge), fun hw hh => ?_⟩
  exact ⟨_, (step_supplyRaster hp).trans (supplyRaster_eq _ hw hh), rfl, rfl, fun hr x y hx hy =>
    ⟨rasterRead_of_supplied rfl hr hw hx hy,
      fun hwidth hheight => sample_of_supplied rfl hr hw hx hy hwidth hheight⟩, rfl⟩

/-- A raster in form is what the supplier presented when it has the same grid and the same samples on it. -/
theorem normalRaster_eq_of_samples {r q : Raster} (hr : Memory.wf (w := 8) r.cells = true) (hq : RasterWf q)
    (hw : r.width = q.width) (hh : r.height = q.height)
    (hsame : ∀ x y, x < r.width → y < r.height →
      Memory.read (w := 8) r.cells (65536 * y + x) = Memory.read (w := 8) q.cells (65536 * y + x)) :
    normalRaster r = q := by
  obtain ⟨-, -, hqwf, hqgrid⟩ := hq
  have cells : (normalRaster r).cells = q.cells := by
    refine Memory.eq_of_read _ _ (normalRaster_cells_wf r) hqwf fun a => ?_
    rw [normalRaster_read r hr]
    by_cases hg : inGrid r a = true
    · obtain ⟨hx, hy⟩ : a % 65536 < r.width ∧ a / 65536 < r.height := by simpa [inGrid] using hg
      have key : 65536 * (a / 65536) + a % 65536 = a := Nat.div_add_mod a 65536
      rw [if_pos hg]
      simpa [key] using hsame _ _ hx hy
    · have unlisted : ¬ ∃ c ∈ q.cells, c.1 = a := by
        rintro ⟨c, hc, rfl⟩
        have hin := List.all_eq_true.mp hqgrid c hc
        rw [inGrid, ← hw, ← hh] at hin
        exact hg hin
      rw [if_neg hg, Memory.read_unlisted (w := 8) _ a unlisted]
  cases q
  exact Raster.mk.injEq .. ▸ ⟨hw, hh, cells⟩

/-- A raster that differs in its grid or in a sample is recorded as a change. -/
theorem normalRaster_ne_of_differs {r q : Raster} (hr : Memory.wf (w := 8) r.cells = true)
    (hw : r.width ≤ Config.maxExtent)
    (hdiff : r.width ≠ q.width ∨ r.height ≠ q.height ∨ ∃ x y, x < r.width ∧ y < r.height ∧
      Memory.read (w := 8) r.cells (65536 * y + x) ≠ Memory.read (w := 8) q.cells (65536 * y + x)) :
    normalRaster r ≠ q := by
  rintro rfl
  obtain hne | hne | ⟨x, y, hx, hy, hne⟩ := hdiff
  · exact hne rfl
  · exact hne rfl
  · exact hne (normalRaster_read_inside hr hw hx hy).symm

/-- Settles O57: the three clauses read the record that the supplier's event makes, and that busy steps keep. -/
theorem rasterChangeInFlightBreaksTheDuty : Obligations.RasterChangeInFlightBreaksTheDuty := by
  refine ⟨fun s t r rest c hp he hr h => ?_, fun s t c c' he h ht hd => ?_, fun s t r rest hp he h => ?_⟩
  · rw [step_supplyRaster hp] at h
    obtain ⟨hw, hh, -⟩ := supplyRaster_next h
    rw [supplyRaster_eq _ hw hh] at h
    cases h
    have busy : isBusy (withPending rest s) = true := by simp [isBusy, he]
    refine ⟨fun hdiff => rasterStable_of_disturbed ?_, fun hform hwidth hheight hsame => ?_⟩
    · simp [busy, normalRaster_ne_of_differs hr hw hdiff]
    · have same : normalRaster r = s.raster := normalRaster_eq_of_samples hr hform hwidth hheight hsame
      rw [busy, same]
      simp [withPending]
  · obtain ⟨st, r, p, rs, n, d, u, hkept, rfl⟩ := step_busy_stays he h ht
    exact rasterStable_of_disturbed (hkept hd)
  · rw [step_supplyRaster hp] at h
    obtain ⟨-, -, d, hidle, rfl⟩ := supplyRaster_next h
    exact hidle he

end Sys2Proof.Machine
end

section
/-! PROOFS. The synchronizer: the bits of a candidate's word, the search, and FIND_SYNC (42_synchronizer.md R71 to
R74). -/

namespace Sys2Proof.Machine

/-! ## The synchronization word (42_synchronizer.md R71) -/

theorem ofBool_getLsbD_zero (b : Bit) : BitVec.ofBool (b.getLsbD 0) = b := by
  revert b
  decide

/-- One sampled bit is shifted in from the right. -/
theorem getLsbD_shiftIn (w : BitVec 6) (b : Bit) {i : Nat} (hi : i < 6) :
    ((w <<< 1) ||| b.setWidth 6).getLsbD i = if i = 0 then b.getLsbD 0 else w.getLsbD (i - 1) := by
  cases i with
  | zero => simp
  | succ j =>
    have within : j < 6 := by omega
    simp [hi, BitVec.getLsbD_eq_getElem within]

/-- After `m` more bits, the last sampled bit is bit 0, and what was there before stands `m` places higher. -/
theorem syncWordFrom_getLsbD (s : State) (x y : Int) (m k : Nat) (w : BitVec 6) (oor : Nat) {i : Nat} (hi : i < 6) :
    (syncWordFrom s x y m k w oor).1.getLsbD i =
      if i < m then (classify (sample s (x + (pos s.params (k + (m - 1 - i)) : Int)) y).1).getLsbD 0
      else w.getLsbD (i - m) := by
  induction m generalizing k w oor with
  | zero => simp [syncWordFrom]
  | succ m ih =>
    rw [syncWordFrom, ih]
    obtain hlt | rfl | hgt := Nat.lt_trichotomy i m
    · rw [if_pos hlt, if_pos (by omega), show k + 1 + (m - 1 - i) = k + (m + 1 - 1 - i) by omega]
    · rw [if_neg (by omega), if_pos (by omega), getLsbD_shiftIn _ _ (by omega), if_pos (by omega),
        show k + (i + 1 - 1 - i) = k by omega]
    · rw [if_neg (by omega), if_neg (by omega), getLsbD_shiftIn _ _ (by omega), if_neg (by omega),
        show i - m - 1 = i - (m + 1) by omega]

/-- The first-sampled bit is bit 5. -/
theorem syncWord_getLsbD (s : State) (x y : Int) {k : Nat} (hk : k < 6) :
    BitVec.ofBool ((syncWord s x y).1.getLsbD (5 - k)) = classify (sample s (x + (pos s.params k : Int)) y).1 := by
  rw [syncWord, Config.syncBits, syncWordFrom_getLsbD _ _ _ _ _ _ _ (by omega), if_pos (by omega),
    ofBool_getLsbD_zero, show 0 + (6 - 1 - (5 - k)) = k by omega]

/-- Settles O25: the fold over the six positions, read bit by bit and counted. -/
theorem syncWordBits : Obligations.SyncWordBits := fun s x y =>
  ⟨fun _ hk => syncWord_getLsbD s x y hk, syncWord_count s x y⟩

/-! ## The search (42_synchronizer.md R72) -/

theorem failOffset_eq (s : State) : failOffset s = (s.width.toNat : Int) - 13 := by
  unfold failOffset Config.scanMargin
  omega

/-- What a search of line `n` returns: `v` is how many candidates it visits. -/
theorem findSync_cases (s : State) (n : Nat) :
    ∃ v, v ≤ s.width.toNat - 12 ∧ (∀ x : Nat, x + 1 < v → ¬ Matches s x (rowOf s.params n)) ∧
      (findSync s n).oor = outOfRangeCount s (rowOf s.params n) (scanColumns s v) ∧
      ((∃ x : Nat, v = x + 1 ∧ Matches s x (rowOf s.params n) ∧ (findSync s n).found = true ∧
          (findSync s n).pat = decide ((syncWord s x (rowOf s.params n)).1 = Config.syncB) ∧
          (findSync s n).ofs = (x : Int) - 1) ∨
        (v = s.width.toNat - 12 ∧ (∀ x : Nat, x < v → ¬ Matches s x (rowOf s.params n)) ∧
          (findSync s n).found = false ∧ (findSync s n).pat = false ∧
          (findSync s n).ofs = (s.width.toNat : Int) - 13)) := by
  obtain ⟨v, hv, hbefore, hoor, hcase⟩ := scanFrom_cases s (rowOf s.params n) (s.width.toNat - 12) 0 0
  simp only [Nat.zero_add, ← List.range_eq_range', failOffset_eq] at hbefore hoor hcase
  refine ⟨v, hv, hbefore, hoor, hcase.imp_right ?_⟩
  rintro ⟨rfl, hnone, hresult⟩
  exact ⟨rfl, hnone, hresult⟩

/-- Settles O27: a match is at one of the candidates `0 .. WIDTH − 13`, of which there are none up to width 12. -/
theorem offsetRange : Obligations.OffsetRange := by
  intro s n
  obtain ⟨v, hv, -, -, ⟨x, rfl, -, hfound, -, hofs⟩ | ⟨-, -, hfound, hpat, hofs⟩⟩ := findSync_cases s n
  · rw [hfound, hofs]
    refine ⟨fun _ => ?_, fun h => Bool.noConfusion h, fun _ => ?_⟩ <;> omega
  · rw [hfound, hofs]
    exact ⟨fun h => Bool.noConfusion h, fun _ => ⟨rfl, hpat⟩, fun _ => rfl⟩

/-! ## Counting (42_synchronizer.md R73, R74) -/

theorem mem_scanColumns {s : State} {m : Nat} {c : Int} :
    c ∈ scanColumns s m ↔ ∃ x < m, ∃ k < 6, (x : Int) + (pos s.params k : Int) = c := by
  simp [scanColumns, syncColumns, Config.syncBits]

theorem length_scanColumns (s : State) (m : Nat) : (scanColumns s m).length = 6 * m := by
  simp [scanColumns, syncColumns, List.length_flatMap, Config.syncBits, Nat.mul_comm]

theorem pos_mono (p : Params) : Monotone (pos p) := monotone_nat_of_le_succ (pos_le_pos_succ p)

theorem outOfRangeCount_eq_zero {s : State} {y : Int} {cs : List Int} (h : ∀ x ∈ cs, inRange s x y = true) :
    outOfRangeCount s y cs = 0 := by
  rw [outOfRangeCount, List.countP_eq_zero]
  intro x hx
  simp [h x hx]

theorem outOfRangeCount_eq_length {s : State} {y : Int} {cs : List Int} (h : ∀ x ∈ cs, inRange s x y = false) :
    outOfRangeCount s y cs = cs.length := by
  rw [outOfRangeCount, List.countP_eq_length]
  intro x hx
  simp [h x hx]

/-- Settles O28: the last column a candidate reads is at most `WIDTH − 13 + pos(5)`. -/
theorem scanStaysInRange : Obligations.ScanStaysInRange := by
  intro s n hpos hrow
  obtain ⟨v, hv, -, hoor, -⟩ := findSync_cases s n
  rw [hoor]
  refine outOfRangeCount_eq_zero fun c hc => ?_
  obtain ⟨x, hx, k, hk, rfl⟩ := mem_scanColumns.mp hc
  have hgrid : pos s.params k ≤ pos s.params 5 := pos_mono s.params (by omega)
  rw [inRange_iff, rowOf]
  omega

/-! ## FIND_SYNC (42_synchronizer.md R74) -/

theorem flag_complete_other (s : State) {j : Nat} (hbusy : j ≠ busyBit) (hdone : j ≠ doneBit) :
    flag (complete s).status j = flag s.status j := by
  rw [complete_status, flag_putFlag_other _ _ _ _ hdone, flag_putFlag_other _ _ _ _ hbusy]

/-- FIND_SYNC's completion, bit by bit of what it writes. -/
theorem flag_complete_putSyncOutputs (o : SyncOutputs) (s : State) :
    flag (complete (putSyncOutputs o s)).status syncFoundBit = o.flags.found ∧
      flag (complete (putSyncOutputs o s)).status syncPatBit = o.flags.pat ∧
      flag (complete (putSyncOutputs o s)).status syncFailBit = o.flags.fail ∧
      flag (complete (putSyncOutputs o s)).status oorBit = o.flags.oor := by
  have bit (j : Nat) (hj : j < 32) (hbusy : j ≠ busyBit) (hdone : j ≠ doneBit) :=
    (flag_complete_other (putSyncOutputs o s) hbusy hdone).trans (flag_putSyncFlags s.status o.flags j hj)
  exact ⟨bit syncFoundBit (by decide) (by decide) (by decide), bit syncPatBit (by decide) (by decide) (by decide),
    bit syncFailBit (by decide) (by decide) (by decide), bit oorBit (by decide) (by decide) (by decide)⟩

theorem exec_findSync_stable {s : State} {n : LineField} (hn : n.toNat < s.params.l) (hstable : rasterStable s = true) :
    exec (.findSync n) s = .next (complete (putSyncOutputs (syncOutputs s n.toNat) s)) := by
  rw [exec_findSync n s hn, searchLine_stable _ s hstable]

/-- Settles O26: the search's result is what is written. -/
theorem findSyncResult : Obligations.FindSyncResult := by
  intro s n hn hstable
  obtain ⟨v, hv, hbefore, hoor, hcase⟩ := findSync_cases s n.toNat
  obtain ⟨ffound, fpat, ffail, foor⟩ := flag_complete_putSyncOutputs (syncOutputs s n.toNat) s
  have flags : SameFlagsBut [busyBit, doneBit, syncFoundBit, syncPatBit, oorBit, syncFailBit] s
      (complete (putSyncOutputs (syncOutputs s n.toNat) s)) :=
    searchLine_stable n.toNat s hstable ▸ (searchLine_sameFlagsBut n.toNat s).complete
  refine ⟨_, v, exec_findSync_stable hn hstable, hbefore, hcase.imp ?_ ?_, congrArg zext32 hoor,
    foor.trans (congrArg (fun k => decide (0 < k)) hoor), completed_complete _, flags, rfl, ⟨rfl, rfl, rfl, rfl⟩,
    sameSurroundings_of_exec (exec_findSync_stable hn hstable), rfl⟩
  · rintro ⟨x, rfl, hmatch, hfound, hpat, hofs⟩
    exact ⟨x, rfl, by omega, hmatch, congrArg sext32 hofs, ffound.trans hfound,
      ffail.trans (congrArg not hfound), fpat.trans hpat⟩
  · rintro ⟨rfl, hnone, hfound, hpat, hofs⟩
    exact ⟨rfl, hnone, congrArg sext32 hofs, ffound.trans hfound, ffail.trans (congrArg not hfound), fpat.trans hpat⟩

theorem inRange_below {s : State} {y : Int} (hy : (s.height.toNat : Int) ≤ y) (x : Int) : inRange s x y = false := by
  rw [Bool.eq_false_iff, ne_eq, inRange_iff]
  omega

/-- Below the raster every sample is the out-of-range value, whose bit is 0. -/
theorem syncWord_below {s : State} {y : Int} (hy : (s.height.toNat : Int) ≤ y) (x : Int) :
    (syncWord s x y).1 = 0#6 := by
  refine BitVec.eq_of_getLsbD_eq fun i hi => ?_
  have bit := syncWord_getLsbD s x y (k := 5 - i) (by omega)
  rw [sample_of_not_inRange (inRange_below hy _), show 5 - (5 - i) = i by omega] at bit
  have zero : ∀ b : Bool, BitVec.ofBool b = classify 0x00#8 → b = false := by decide
  rw [zero _ bit, BitVec.getLsbD_zero]

theorem not_matches_below {s : State} {y : Int} (hy : (s.height.toNat : Int) ≤ y) (x : Int) : ¬ Matches s x y := by
  rw [Matches, syncWord_below hy]
  decide

/-- Settles O29: no candidate matches, so all are visited, and each counts its six positions. -/
theorem findSyncBelowTheRaster : Obligations.FindSyncBelowTheRaster := by
  intro s n hn hstable hrow
  have hy : (s.height.toNat : Int) ≤ rowOf s.params n.toNat := by
    rw [rowOf]
    omega
  obtain ⟨v, -, -, hoor, ⟨x, -, hmatch, -⟩ | ⟨rfl, -, hfound, -, hofs⟩⟩ := findSync_cases s n.toNat
  · exact absurd hmatch (not_matches_below hy x)
  · have count : (findSync s n.toNat).oor = 6 * (s.width.toNat - 12) := by
      rw [hoor, outOfRangeCount_eq_length fun c _ => inRange_below hy c, length_scanColumns]
    obtain ⟨ffound, -, ffail, foor⟩ := flag_complete_putSyncOutputs (syncOutputs s n.toNat) s
    refine ⟨_, exec_findSync_stable hn hstable, congrArg zext32 count, ffail.trans (congrArg not hfound),
      ffound.trans hfound, foor.trans ?_, congrArg sext32 hofs⟩
    show decide (0 < (findSync s n.toNat).oor) = _
    rw [count]
    exact decide_eq_decide.mpr (by omega)

end Sys2Proof.Machine
end

section
/-! PROOFS. The sampler: the stored bits of a line, descrambling, and SAMPLE_LINE (43_sampler.md R76 to R79). -/

namespace Sys2Proof.Machine

/-! ## Descrambling (43_sampler.md R78) -/

/-- Settles O31: what is XORed twice with the same bit is as before. -/
theorem descramblingIsAnInvolution : Obligations.DescramblingIsAnInvolution := by
  intro s n ofs S d h
  refine List.ext_getElem (by simp) fun j hj hj' => ?_
  have hlt : j < 99 := by rwa [sampleLine_length] at hj
  rw [sampleLine_bit, h j hlt, BitVec.xor_assoc, BitVec.xor_self, BitVec.xor_zero, List.getElem_map, List.getElem_range]

/-! ## SAMPLE_LINE (43_sampler.md R79) -/

theorem exec_sampleLine_stable {s : State} {n : LineField} (hn : n.toNat < s.params.l)
    (hstable : rasterStable s = true) :
    exec (.sampleLine n) s = .next (complete (putSampleOutputs n.toNat (sampleOutputs s n.toNat) s)) := by
  rw [exec_sampleLine n s hn, storeLine_stable _ s hstable]

/-- The bits of a sampled line read back where they were stored. -/
theorem read_writeLineBits_sampleLine {m : Memory 1} (hm : Memory.wf m = true) (s : State) (n : Nat) (ofs : Int)
    (S : Scrambler) {j : Nat} (hj : j < 99) :
    Memory.read (writeLineBits m n (sampleLine s n ofs S).bits) (99 * n + j) =
      classify (sample s (dataColumn s.params ofs j) (rowOf s.params n)).1 ^^^ scramblerBit S j := by
  have hlt : j < (sampleLine s n ofs S).bits.length := by rwa [sampleLine_length]
  rw [read_writeLineBits m n j _ hm hlt, sampleLine_bit]

/-- SAMPLE_LINE's completion writes the one flag. -/
theorem flag_complete_putSampleOutputs (n : Nat) (o : SampleOutputs) (s : State) :
    flag (complete (putSampleOutputs n o s)).status oorBit = o.oor := by
  rw [flag_complete_other _ (by decide) (by decide), putSampleOutputs_status, flag_putFlag_same _ _ (by decide)]

section
variable (s : State) (n : Nat)

theorem sampleOutputs_bits : (sampleOutputs s n).bits = (sampleLine s n (sval s.offset) s.lfsr).bits := rfl

theorem sampleOutputs_lfsr : (sampleOutputs s n).lfsr = advanceN 99 s.lfsr := by
  rw [sampleOutputs, sampleLine_scrambler]

theorem sampleOutputs_result : (sampleOutputs s n).result =
    BitVec.ofNat 32 (outOfRangeCount s (rowOf s.params n) (dataColumns s (sval s.offset))) := by
  rw [sampleOutputs, sampleLine_count, zext32]

theorem sampleOutputs_oor : (sampleOutputs s n).oor =
    decide (0 < outOfRangeCount s (rowOf s.params n) (dataColumns s (sval s.offset))) := by
  rw [sampleOutputs, sampleLine_count]

end

/-- Settles O30: the line's bits, the advanced scrambler and the count are those of `sampleLine`. -/
theorem sampleLineResult : Obligations.SampleLineResult := by
  intro s n hn hstable hwf
  have flags : SameFlagsBut [busyBit, doneBit, oorBit] s
      (complete (putSampleOutputs n.toNat (sampleOutputs s n.toNat) s)) :=
    storeLine_stable n.toNat s hstable ▸ (storeLine_sameFlagsBut n.toNat s).complete
  refine ⟨_, exec_sampleLine_stable hn hstable, fun j hj => ?_, fun a ha => ?_, ?_, ?_,
    ?_, completed_complete _,
    flags, ?_, ?_, ?_, ?_, sameSurroundings_of_exec (exec_sampleLine_stable hn hstable), ?_⟩
  · rw [streamRead, complete_bitstream, putSampleOutputs_bitstream, sampleOutputs_bits]
    exact read_writeLineBits_sampleLine hwf s n.toNat (sval s.offset) s.lfsr hj
  · rw [streamRead, complete_bitstream, putSampleOutputs_bitstream, sampleOutputs_bits]
    exact read_writeLineBits_other _ _ _ _ (by rwa [sampleLine_length])
  · rw [complete_lfsr, putSampleOutputs_lfsr, sampleOutputs_lfsr]
  · rw [complete_result, putSampleOutputs_result, sampleOutputs_result]
    rfl
  · rw [flag_complete_putSampleOutputs, sampleOutputs_oor]
    rfl
  · rw [complete_offset, putSampleOutputs_offset]
  · rw [complete_lineOfs, putSampleOutputs_lineOfs]
  · rw [complete_lineFlags, putSampleOutputs_lineFlags]
  · rw [complete_pkt, putSampleOutputs_pkt]
  · rw [complete_draws, putSampleOutputs_draws]

end Sys2Proof.Machine
end

section
/-! PROOFS. The frame decoder: what each line of the frame holds, its equality with the host's line by line sequence,
and what the lines and registers do not affect (44_frame.md R81 to R87, 70_reset_and_hazards.md R117). -/

namespace Sys2Proof.Machine

/-! ## The lines of a frame (44_frame.md R81 to R84) -/

theorem zeroLines_lt_lines (p : Params) : p.z < p.l := by
  obtain ⟨-, -, -, -, -, -, hz⟩ := p.legal
  exact hz

section
variable {s : State} {n : Nat} (hn : n < s.params.z)
include hn

theorem lineBitsOf_zero : lineBitsOf s n = List.replicate 99 0#1 := if_pos hn

theorem lineOfsOf_zero : lineOfsOf s n = 0#32 := if_pos hn

theorem lineFieldOf_zero : lineFieldOf s n = 0b1000#4 := if_pos hn

end

section
variable {s : State} {n : Nat} (hn : s.params.z ≤ n)
include hn

theorem lineBitsOf_data : lineBitsOf s n = (sampleLine s n (findSync s n).ofs (seed s.params n)).bits :=
  if_neg (Nat.not_lt.mpr hn)

theorem lineOfsOf_data : lineOfsOf s n = sext32 (findSync s n).ofs := if_neg (Nat.not_lt.mpr hn)

theorem lineFieldOf_data :
    lineFieldOf s n = lineFlagsOf false (lineOorOf s n) (findSync s n).pat (findSync s n).found :=
  if_neg (Nat.not_lt.mpr hn)

theorem lineOorOf_data : lineOorOf s n = decide (0 < (findSync s n).oor +
    outOfRangeCount s (rowOf s.params n) (dataColumns s (findSync s n).ofs)) := by
  rw [lineOorOf, sampleLine_count, decide_eq_false (Nat.not_lt.mpr hn), Bool.not_false, Bool.true_and]

end

theorem zeroLines_le_of_lineOorOf {s : State} {n : Nat} (h : lineOorOf s n = true) : s.params.z ≤ n := by
  obtain ⟨hn, -⟩ := Bool.and_eq_true_iff.mp h
  simpa using hn

/-- The four bits of a `LINE_FLAGS` field (10_state.md R30). -/
theorem lineFlagsOf_getLsbD (zero oor pat found : Bool) :
    (lineFlagsOf zero oor pat found).getLsbD 0 = found ∧ (lineFlagsOf zero oor pat found).getLsbD 1 = pat ∧
      (lineFlagsOf zero oor pat found).getLsbD 2 = oor ∧ (lineFlagsOf zero oor pat found).getLsbD 3 = zero := by
  revert zero oor pat found
  decide

/-- The four bits of a data line's field. -/
theorem lineFieldOf_data_getLsbD {s : State} {n : Nat} (hn : s.params.z ≤ n) :
    (lineFieldOf s n).getLsbD 0 = (findSync s n).found ∧ (lineFieldOf s n).getLsbD 1 = (findSync s n).pat ∧
      (lineFieldOf s n).getLsbD 2 = lineOorOf s n ∧ (lineFieldOf s n).getLsbD 3 = false := by
  rw [lineFieldOf_data hn]
  exact lineFlagsOf_getLsbD ..

theorem lineBitsOf_zero_getElem {s : State} {n j : Nat} (hn : n < s.params.z) (hj : j < (lineBitsOf s n).length) :
    (lineBitsOf s n)[j] = 0#1 := by
  simp only [lineBitsOf_zero hn, List.getElem_replicate]

theorem lineBitsOf_data_getElem {s : State} {n j : Nat} (hn : s.params.z ≤ n) (hj : j < (lineBitsOf s n).length) :
    (lineBitsOf s n)[j] =
      classify (sample s (dataColumn s.params (findSync s n).ofs j) (rowOf s.params n)).1
        ^^^ scramblerBit (seed s.params n) j := by
  simp only [lineBitsOf_data hn, sampleLine_bit]

/-! ## DECODE_FRAME (44_frame.md R85, R86) -/

theorem malformed_eq_false_iff (s : State) :
    malformed s = false ↔ 13 ≤ s.width.toNat ∧ s.params.row0 + s.params.l ≤ s.height.toNat := by
  rw [Bool.eq_false_iff, ne_eq, malformed_iff]
  omega

theorem exec_decodeFrame_stable {s : State} (hm : malformed s = false) (hstable : rasterStable s = true) :
    exec .decodeFrame s = .next (complete (putFrameOutputs (frameOutputs s) s)) := by
  rw [exec_decodeFrame, decodeFrame_stable s hm hstable]

/-- DECODE_FRAME's completion writes its two flags. -/
theorem flag_complete_putFrameOutputs (f : FrameOutputs) (s : State) :
    flag (complete (putFrameOutputs f s)).status syncFailBit = decide (0 < f.fails) ∧
      flag (complete (putFrameOutputs f s)).status oorBit = f.anyOor := by
  have bit (j : Nat) (hj : j < 32) (hbusy : j ≠ busyBit) (hdone : j ≠ doneBit) :=
    (flag_complete_other (putFrameOutputs f s) hbusy hdone).trans
      (flag_putFrameFlags s.status (decide (0 < f.fails)) f.anyOor j hj)
  exact ⟨bit syncFailBit (by decide) (by decide) (by decide), bit oorBit (by decide) (by decide) (by decide)⟩

section
variable {s : State} (hbits : Memory.wf s.bitstream = true) (hofs : Memory.wf s.lineOfs = true)
  (hflags : Memory.wf s.lineFlags = true)
include hbits hofs hflags

theorem frameOutputs_fails : (frameOutputs s).fails = (List.range s.params.l).countP (lineFailed s) := by
  rw [(frameOutputs_loop s hbits hofs hflags).fails, List.range_eq_range', Nat.zero_add]

theorem frameOutputs_fails_pos_iff : 0 < (frameOutputs s).fails ↔
    ∃ n, s.params.z ≤ n ∧ n < s.params.l ∧ (findSync s n).found = false := by
  rw [frameOutputs_fails hbits hofs hflags, List.countP_pos_iff]
  simp only [List.mem_range, lineFailed, Bool.and_eq_true, decide_eq_true_iff, Bool.not_eq_true']
  exact exists_congr fun n => and_left_comm

theorem frameOutputs_anyOor_iff : (frameOutputs s).anyOor = true ↔ ∃ n < s.params.l, lineOorOf s n = true := by
  rw [(frameOutputs_loop s hbits hofs hflags).anyOor, Bool.false_or, ← List.range_eq_range', List.any_eq_true]
  simp only [List.mem_range]

/-- What a decoded frame holds of line `n`. -/
theorem decodedFrame_line {n : Nat} (hn : n < s.params.l) :
    (∀ j (hj : j < (lineBitsOf s n).length),
        streamRead (complete (putFrameOutputs (frameOutputs s) s)) (99 * n + j) = (lineBitsOf s n)[j]) ∧
      (complete (putFrameOutputs (frameOutputs s) s)).lineOfs.read n = lineOfsOf s n ∧
      (complete (putFrameOutputs (frameOutputs s) s)).lineFlags.read n = lineFieldOf s n := by
  have loop := frameOutputs_loop s hbits hofs hflags
  exact ⟨fun j hj => loop.bits n j hj (by omega) (by omega), loop.ofs n (by omega) (by omega),
    loop.flags n (by omega) (by omega)⟩

end

/-- Settles O33: the loop's invariant at its end, read line by line and summed up. -/
theorem decodeFrameResult : Obligations.DecodeFrameResult := by
  intro s hwidth hheight hstable hbits hofs hflags
  have hm : malformed s = false := (malformed_eq_false_iff s).mpr ⟨hwidth, hheight⟩
  have loop := frameOutputs_loop s hbits hofs hflags
  obtain ⟨ffail, foor⟩ := flag_complete_putFrameOutputs (frameOutputs s) s
  have flags : SameFlagsBut [busyBit, doneBit, syncFailBit, oorBit] s
      (complete (putFrameOutputs (frameOutputs s) s)) :=
    decodeFrame_stable s hm hstable ▸ (decodeFrame_sameFlagsBut_of_not_malformed hm).complete
  refine ⟨_, exec_decodeFrame_stable hm hstable, fun n hn => ?_, fun n hn hnl => ?_,
    fun a ha => loop.bits_other a (by omega),
    fun a ha => ⟨loop.ofs_other a (by omega), loop.flags_other a (by omega)⟩,
    congrArg zext32 (frameOutputs_fails hbits hofs hflags), ?_, ?_,
    completed_complete _, flags, rfl, rfl, rfl, sameSurroundings_of_exec (exec_decodeFrame_stable hm hstable), rfl⟩
  · obtain ⟨bits, ofs, field⟩ := decodedFrame_line hbits hofs hflags (hn.trans (zeroLines_lt_lines s.params))
    refine ⟨fun j hj => ?_, ofs.trans (lineOfsOf_zero hn), field.trans (lineFieldOf_zero hn)⟩
    have hlt : j < (lineBitsOf s n).length := by rwa [lineBitsOf_length]
    exact (bits j hlt).trans (lineBitsOf_zero_getElem hn hlt)
  · obtain ⟨bits, ofs, field⟩ := decodedFrame_line hbits hofs hflags hnl
    obtain ⟨found, pat, oor, zero⟩ := lineFieldOf_data_getLsbD hn
    rw [field]
    refine ⟨fun j hj => ?_, ofs.trans (lineOfsOf_data hn), found, pat, oor.trans (lineOorOf_data hn), zero⟩
    have hlt : j < (lineBitsOf s n).length := by rwa [lineBitsOf_length]
    exact (bits j hlt).trans (lineBitsOf_data_getElem hn hlt)
  · rw [ffail, decide_eq_true_iff, frameOutputs_fails_pos_iff hbits hofs hflags]
  · have bit (n : Nat) (hn : s.params.z ≤ n) (hnl : n < s.params.l) :
        ((complete (putFrameOutputs (frameOutputs s) s)).lineFlags.read n).getLsbD 2 = lineOorOf s n := by
      obtain ⟨-, -, field⟩ := decodedFrame_line hbits hofs hflags hnl
      obtain ⟨-, -, oor, -⟩ := lineFieldOf_data_getLsbD hn
      rw [field, oor]
    rw [foor, frameOutputs_anyOor_iff hbits hofs hflags]
    constructor
    · rintro ⟨n, hnl, hoor⟩
      have hn := zeroLines_le_of_lineOorOf hoor
      exact ⟨n, hn, hnl, (bit n hn hnl).trans hoor⟩
    · rintro ⟨n, hn, hnl, hoor⟩
      exact ⟨n, hnl, (bit n hn hnl).symm.trans hoor⟩

/-! ## The host's line by line sequence (44_frame.md R87 (a)) -/

/-- The search's offset fits `OFFSET`, so that it is read back as it was returned (00_scope.md R12). -/
theorem sval_sext32_findSync_ofs (s : State) (n : Nat) : sval (sext32 (findSync s n).ofs) = (findSync s n).ofs := by
  have hw : s.width.toNat < 65536 := s.width.isLt
  rw [sval, sext32, BitVec.toInt_ofInt]
  obtain ⟨v, hv, -, -, ⟨x, rfl, -, -, -, hofs⟩ | ⟨-, -, -, -, hofs⟩⟩ := findSync_cases s n
  · rw [hofs, Int.bmod_eq_of_le (by omega) (by omega)]
  · rw [hofs, Int.bmod_eq_of_le (by omega) (by omega)]

/-- The bits that the loop stores do not depend on the line records. -/
theorem frameLines_bitstream (s : State) (m n : Nat) {f g : FrameOutputs} (h : g.bitstream = f.bitstream) :
    (frameLines s m n g).bitstream = (frameLines s m n f).bitstream := by
  induction m generalizing n f g with
  | zero => exact h
  | succ m ih =>
    refine ih (n + 1) ?_
    rw [frameLine_eq, frameLine_eq, h]

/-- A decoded frame's bits, for line records of any form. -/
theorem decodedFrame_bits {s : State} (hbits : Memory.wf s.bitstream = true) {n j : Nat} (hn : n < s.params.l)
    (hj : j < (lineBitsOf s n).length) :
    streamRead (complete (putFrameOutputs (frameOutputs s) s)) (99 * n + j) = (lineBitsOf s n)[j] := by
  have loop := frameLines_loop s s.params.l 0
    { bitstream := s.bitstream, lineOfs := [], lineFlags := [], fails := 0, anyOor := false } hbits rfl rfl
  rw [streamRead, complete_bitstream, putFrameOutputs_bitstream, frameOutputs, ← loop.bits n j hj (by omega) (by omega)]
  exact congrArg (Memory.read · _) (frameLines_bitstream s _ _ rfl)

section
variable {s s1 s2 : State} {n : LineField} (hstable : rasterStable s = true) (hn : n.toNat < s.params.l)
  (h1 : exec (.lfsrSeed n) s = .next s1) (h2 : exec (.findSync n) s1 = .next s2)
include hstable hn h1 h2

/-- The seed does not disturb the search, which finds what it finds from `s`. -/
theorem eq_of_exec_seed_search :
    s2 = complete (putSyncOutputs (syncOutputs s n.toNat) (complete (loadSeed n.toNat s))) := by
  obtain ⟨-, hwidth, hheight⟩ := (rasterStable_iff s).mp hstable
  rw [exec_lfsrSeed] at h1
  cases h1
  have stable : rasterStable (complete (loadSeed n.toNat s)) = true := (rasterStable_iff _).mpr ⟨rfl, hwidth, hheight⟩
  have row := sameRow_of_fields (s := s) (s' := complete (loadSeed n.toNat s)) rfl rfl rfl rfl rfl
    (rowOf s.params n.toNat)
  rw [exec_findSync_stable (s := complete (loadSeed n.toNat s)) hn stable, syncOutputs, findSync_congr row] at h2
  cases h2
  rfl

/-- The host's three commands store line `n` sampled at the search's offset from the line's seed. -/
theorem hostSequence_bits {s3 : State} (h3 : exec (.sampleLine n) s2 = .next s3) :
    s3.bitstream = writeLineBits s.bitstream n.toNat
      (sampleLine s n.toNat (findSync s n.toNat).ofs (seed s.params n.toNat)).bits := by
  obtain ⟨-, hwidth, hheight⟩ := (rasterStable_iff s).mp hstable
  have hs2 := (eq_of_exec_seed_search hstable hn h1 h2).symm
  have row : SameRow s s2 (rowOf s.params n.toNat) := hs2 ▸ sameRow_of_fields (s := s)
    (s' := complete (putSyncOutputs (syncOutputs s n.toNat) (complete (loadSeed n.toNat s)))) rfl rfl rfl rfl rfl _
  have stable : rasterStable s2 = true := (rasterStable_iff s2).mpr (hs2 ▸ ⟨rfl, hwidth, hheight⟩)
  have offset : s2.offset = sext32 (findSync s n.toNat).ofs := hs2 ▸ rfl
  have lfsr : s2.lfsr = seed s.params n.toNat := hs2 ▸ rfl
  have stream : s2.bitstream = s.bitstream := hs2 ▸ rfl
  rw [exec_sampleLine_stable (by rwa [row.params]) stable] at h3
  cases h3
  rw [complete_bitstream, putSampleOutputs_bitstream, sampleOutputs_bits, stream, offset, lfsr,
    sval_sext32_findSync_ofs, sampleLine_congr row]

end

/-- Settles O34: both store the line sampled at the search's offset from the line's seed. -/
theorem frameLineEqualsHostSequence : Obligations.FrameLineEqualsHostSequence := by
  intro s s1 s2 s3 t n hm hstable hbits hz hn h1 h2 h3 ht j hj
  have hlt : j < (lineBitsOf s n.toNat).length := by rwa [lineBitsOf_length]
  rw [exec_decodeFrame_stable hm hstable] at ht
  cases ht
  rw [decodedFrame_bits hbits hn hlt, lineBitsOf_data_getElem hz, streamRead,
    hostSequence_bits hstable hn h1 h2 h3, read_writeLineBits_sampleLine hbits s n.toNat _ _ hj]

/-! ## What a line and the frame do not depend on (44_frame.md R82, R87 (b)) -/

/-- Two states whose rasters agree on a row sample it alike. -/
theorem sameRow_of_rasterRead {s s' : State} {y : Nat} (hp : s'.params = s.params) (hw : s'.width = s.width)
    (hh : s'.height = s.height) (hrow : ∀ x, x < s.width.toNat → rasterRead s' x y = rasterRead s x y) :
    SameRow s s' (y : Int) where
  params := hp
  width := hw
  sample x := by
    have range : inRange s' x y = inRange s x y := by rw [inRange, inRange, hw, hh]
    cases hin : inRange s x y with
    | false => rw [sample_of_not_inRange hin, sample_of_not_inRange (range.trans hin)]
    | true =>
      obtain ⟨hx, hxw, -, -⟩ := (inRange_iff s x y).mp hin
      rw [sample_of_inRange hin, sample_of_inRange (range.trans hin), Int.toNat_natCast, hrow x.toNat (by omega)]

/-- Settles O35: the line that each frame holds is a function of the row. -/
theorem linesAreIndependent : Obligations.LinesAreIndependent := by
  intro s s' t t' n hp hw hh hm hstable hstable' hbits hofs hflags hbits' hofs' hflags' hn hrow ht ht'
  have hm' : malformed s' = false := by rwa [malformed, hp, hw, hh, ← malformed]
  have row : SameRow s s' (rowOf s.params n) := sameRow_of_rasterRead hp hw hh hrow
  rw [exec_decodeFrame_stable hm hstable] at ht
  rw [exec_decodeFrame_stable hm' hstable'] at ht'
  cases ht
  cases ht'
  obtain ⟨bits, ofs, field⟩ := decodedFrame_line hbits hofs hflags hn
  obtain ⟨bits', ofs', field'⟩ := decodedFrame_line hbits' hofs' hflags' (by rwa [hp] : n < s'.params.l)
  refine ⟨fun j hj => ?_, ?_, ?_⟩
  · rw [bits j (by rwa [lineBitsOf_length]), bits' j (by rwa [lineBitsOf_length])]
    simp only [lineBitsOf_congr row]
  · rw [ofs, ofs', lineOfsOf_congr row]
  · rw [field, field', lineFieldOf_congr row]

/-- `s` with other values in `LFSR` and `OFFSET`. -/
def withLineRegisters (l : Scrambler) (o : Word) (s : State) : State := { s with lfsr := l, offset := o }

theorem decodeFrame_withLineRegisters (l : Scrambler) (o : Word) (s : State) :
    decodeFrame (withLineRegisters l o s) = withLineRegisters l o (decodeFrame s) := by
  have outputs : frameOutputs (withLineRegisters l o s) = frameOutputs s :=
    frameOutputs_congr (fun y => sameRow_of_fields (s := s) (s' := withLineRegisters l o s) rfl rfl rfl rfl rfl y)
      rfl rfl rfl
  cases hm : malformed s with
  | true => rw [decodeFrame_malformed s hm, decodeFrame_malformed (withLineRegisters l o s) hm]; rfl
  | false =>
    cases hstable : rasterStable s with
    | true =>
      rw [decodeFrame_stable s hm hstable, decodeFrame_stable (withLineRegisters l o s) hm hstable, outputs]
      rfl
    | false =>
      rw [decodeFrame_broken s hm hstable, decodeFrame_broken (withLineRegisters l o s) hm hstable]
      rfl

theorem decodeFrame_lineRegisters (s : State) :
    (decodeFrame s).lfsr = s.lfsr ∧ (decodeFrame s).offset = s.offset := by
  cases hm : malformed s with
  | true => rw [decodeFrame_malformed s hm]; exact ⟨rfl, rfl⟩
  | false =>
    cases hstable : rasterStable s with
    | true => rw [decodeFrame_stable s hm hstable]; exact ⟨rfl, rfl⟩
    | false => rw [decodeFrame_broken s hm hstable]; exact ⟨rfl, rfl⟩

/-- Settles O36: the two registers are no input of the frame's outputs, and no output. -/
theorem frameIgnoresLineRegisters : Obligations.FrameIgnoresLineRegisters := by
  intro s t l o _ ht
  rw [exec_decodeFrame] at ht
  cases ht
  obtain ⟨hlfsr, hofs⟩ := decodeFrame_lineRegisters s
  refine ⟨hlfsr, hofs, ?_⟩
  show exec .decodeFrame (withLineRegisters l o s) = _
  rw [exec_decodeFrame, decodeFrame_withLineRegisters]
  rfl

/-! ## Broken duties (70_reset_and_hazards.md R117) -/

/-- Settles O37: with a duty broken the values are drawn, and go to the same places. -/
theorem brokenDutiesAffectOnlyTheOutputs : Obligations.BrokenDutiesAffectOnlyTheOutputs := by
  refine fun s hbroken => ⟨fun n hn => ?_, fun n hn => ?_, fun hm => ?_⟩
  · have surroundings := sameSurroundings_of_exec (exec_findSync n s hn)
    have flags := (searchLine_sameFlagsBut n.toNat s).complete
    have effect := searchLine_broken n.toNat s hbroken
    exact ⟨_, exec_findSync n s hn, completed_complete _, flags, by rw [effect]; rfl,
      by rw [effect]; exact ⟨rfl, rfl, rfl, rfl⟩, surroundings⟩
  · have surroundings := sameSurroundings_of_exec (exec_sampleLine n s hn)
    have flags := (storeLine_sameFlagsBut n.toNat s).complete
    have effect := storeLine_broken n.toNat s hbroken
    refine ⟨_, exec_sampleLine n s hn, completed_complete _, flags, ?_, fun a ha => ?_, ?_, ?_, ?_, surroundings⟩
    · rw [effect, complete_offset, putSampleOutputs_offset, spendDraws_offset]
    · rw [effect, streamRead, complete_bitstream, putSampleOutputs_bitstream, spendDraws_bitstream]
      exact read_writeLineBits_other _ _ _ _ (by rwa [drawnSampleOutputs, drawnBits_length])
    · rw [effect, complete_lineOfs, putSampleOutputs_lineOfs, spendDraws_lineOfs]
    · rw [effect, complete_lineFlags, putSampleOutputs_lineFlags, spendDraws_lineFlags]
    · rw [effect, complete_pkt, putSampleOutputs_pkt, spendDraws_pkt]
  · have surroundings := sameSurroundings_of_exec (exec_decodeFrame s)
    have flags := (decodeFrame_sameFlagsBut_of_not_malformed hm).complete
    have effect := decodeFrame_broken s hm hbroken
    obtain ⟨hlfsr, hofs⟩ := decodeFrame_lineRegisters s
    refine ⟨_, exec_decodeFrame s, completed_complete _, flags, hlfsr, hofs, fun a ha => ?_, fun a ha => ⟨?_, ?_⟩,
      by rw [effect]; rfl, surroundings⟩
    · rw [effect, streamRead, complete_bitstream, putDrawnFrame_bitstream]
      exact Memory.read_writeRange_other _ _ _ _ (by rw [drawnBits_length]; omega)
    · rw [effect, complete_lineOfs, putDrawnFrame_lineOfs]
      exact Memory.read_writeRange_other _ _ _ _ (by simpa using ha)
    · rw [effect, complete_lineFlags, putDrawnFrame_lineFlags]
      exact Memory.read_writeRange_other _ _ _ _ (by simpa using ha)

end Sys2Proof.Machine
end

section
/-! PROOFS. The packet splitter: SPLIT_PACKETS, the interleave that undoes it, and the lanes that compute it
(45_packets.md R88 to R95). -/

namespace Sys2Proof.Machine

/-! ## SPLIT_PACKETS (45_packets.md R95) -/

/-- Bit `k` of byte `b` of a packet is received bit `b + 94·k`. -/
theorem deinterleavedByte_getLsbD (stream : Memory 1) (p b : Nat) {k : Nat} (hk : k < 8) :
    BitVec.ofBool ((deinterleavedByte stream p b).getLsbD k) = packetBit stream p (b + 94 * k) :=
  byteOfBits_getLsbD _ k hk

theorem packetBit_of_lt (stream : Memory 1) (p : Nat) {r : Nat} (hr : r < 751) :
    packetBit stream p r = stream.read (751 * p + r) := if_pos hr

/-- The pad bit (45_packets.md R88). -/
theorem packetBit_pad (stream : Memory 1) (p : Nat) {r : Nat} (hr : 751 ≤ r) : packetBit stream p r = 0#1 :=
  if_neg (Nat.not_lt.mpr hr)

section
variable {s : State} (hwf : Memory.wf s.pkt = true)
include hwf

/-- A byte of a packet after SPLIT_PACKETS. -/
theorem splitPackets_pkt_read {p b : Nat} (hp : p < 82) (hb : b < 94) :
    (splitPackets s).pkt.read (94 * p + b) = deinterleavedByte s.bitstream p b := by
  obtain ⟨-, inside, -⟩ := splitFrom_read s.bitstream Config.pktsPerFrame 0 s.pkt hwf
  rw [splitPackets_pkt]
  exact inside p b (Nat.zero_le p) (by rw [Config.pktsPerFrame]; omega) hb

/-- Every other byte is as before. -/
theorem splitPackets_pkt_read_other {a : Nat} (ha : 82 * 94 ≤ a) : (splitPackets s).pkt.read a = s.pkt.read a := by
  obtain ⟨-, -, outside⟩ := splitFrom_read s.bitstream Config.pktsPerFrame 0 s.pkt hwf
  rw [splitPackets_pkt]
  exact outside a (.inr (by rw [Config.pktsPerFrame]; omega))

end

/-- Settles O39: the loop writes each packet's bytes, and nothing else. -/
theorem splitPacketsResult : Obligations.SplitPacketsResult := by
  intro s hwf
  refine ⟨complete (splitPackets s), exec_splitPackets s, fun p b k hp hb hk => ?_, fun a ha => ?_,
    splitPackets_result s, completed_complete _, sameFlagsBut_complete_of_status_eq (splitPackets_status s),
    splitPackets_lfsr s, splitPackets_offset s, splitPackets_bitstream s, splitPackets_lineOfs s,
    splitPackets_lineFlags s, sameSurroundings_of_exec (exec_splitPackets s), splitPackets_draws s⟩
  · rw [complete_pkt, splitPackets_pkt_read hwf hp hb, deinterleavedByte_getLsbD _ _ _ hk]
    rfl
  · rw [complete_pkt, splitPackets_pkt_read_other hwf ha]

/-! ## The interleave (45_packets.md R94) -/

theorem pktByte_of_exec_splitPackets {s t : State} (hwf : Memory.wf s.pkt = true) (h : exec .splitPackets s = .next t)
    {p b : Nat} (hp : p < 82) (hb : b < 94) : pktByte t p b = deinterleavedByte s.bitstream p b := by
  rw [exec_splitPackets] at h
  cases h
  rw [pktByte, complete_pkt, Config.pktBytes, splitPackets_pkt_read hwf hp hb]

/-- Settles O40: position `r` of the interleaved packet is bit `r / 94` of byte `r mod 94`. -/
theorem interleaveUndoesTheTranspose : Obligations.InterleaveUndoesTheTranspose := by
  intro s t hwf h p hp
  refine ⟨fun r hr => ?_, ?_⟩
  · rw [pktByte_of_exec_splitPackets hwf h hp (Nat.mod_lt r (by decide)), deinterleavedByte_getLsbD _ _ _ (by omega),
      Nat.mod_add_div]
    exact (packetBit_of_lt _ p hr).symm
  · have pad : BitVec.ofBool ((deinterleavedByte s.bitstream p 93).getLsbD 7) = 0#1 :=
      (deinterleavedByte_getLsbD s.bitstream p 93 (by decide)).trans (packetBit_pad _ p (by decide))
    rw [pktByte_of_exec_splitPackets hwf h hp (by decide)]
    exact BitVec.ofBool_eq_iff_eq.mp pad

/-! ## The lanes (45_packets.md R90) -/

theorem laneStep_getElem (r : Nat → Bit) (lanes : List Byte) (m b : Nat) (hb : b < (laneStep r lanes m).length) :
    (laneStep r lanes m)[b] =
      if m % 94 = b then (lanes[b]'(by simpa [laneStep] using hb) >>> 1) ||| ((r m).setWidth 8 <<< 7)
      else lanes[b]'(by simpa [laneStep] using hb) := by
  simp [laneStep, List.getElem_modify, Config.pktBytes]

/-- A rotated lane: the received bit is at the top, the older bits one place lower. -/
theorem getLsbD_inject (lane : Byte) (v : Bit) {i : Nat} (hi : i < 8) :
    ((lane >>> 1) ||| (v.setWidth 8 <<< 7)).getLsbD i = if i = 7 then v.getLsbD 0 else lane.getLsbD (i + 1) := by
  by_cases h : i = 7
  · subst h
    simp
  · have low : i < 7 := by omega
    simp [h, low, Nat.add_comm]

theorem lanesAfter_succ (r : Nat → Bit) (m : Nat) : lanesAfter r (m + 1) = laneStep r (lanesAfter r m) m := by
  rw [lanesAfter, List.range_succ, List.foldl_append]
  rfl

@[simp] theorem lanesAfter_length (r : Nat → Bit) (m : Nat) : (lanesAfter r m).length = 94 := by
  induction m with
  | zero => simp [lanesAfter, Config.pktBytes]
  | succ m ih => simp [lanesAfter_succ, laneStep, ih]

/-- How many of the first `m` received bits went to lane `b`. -/
def laneCount (m b : Nat) : Nat := (m + 93 - b) / 94

theorem laneCount_succ {m b : Nat} (hb : b < 94) :
    laneCount (m + 1) b = if m % 94 = b then laneCount m b + 1 else laneCount m b := by
  unfold laneCount
  split <;> omega

/-- After `m ≤ 752` bits, a lane that took `q` of them holds them in its upper `q` places, the oldest lowest. -/
theorem lanesAfter_getLsbD (r : Nat → Bit) {m : Nat} (hm : m ≤ 752) {b i : Nat} (hb : b < (lanesAfter r m).length)
    (hi : i < 8) :
    (lanesAfter r m)[b].getLsbD i =
      if 8 ≤ i + laneCount m b then (r (b + 94 * (i + laneCount m b - 8))).getLsbD 0 else false := by
  have hb94 : b < 94 := by rwa [lanesAfter_length] at hb
  induction m generalizing i with
  | zero =>
    have none : laneCount 0 b = 0 := by unfold laneCount; omega
    rw [none, if_neg (by omega)]
    simp [lanesAfter]
  | succ m ih =>
    have hb' : b < (lanesAfter r m).length := by rwa [lanesAfter_length]
    simp only [lanesAfter_succ, laneStep_getElem, laneCount_succ hb94]
    by_cases hlane : m % 94 = b
    · have count : m = b + 94 * laneCount m b := by unfold laneCount; omega
      have few : laneCount m b < 8 := by omega
      simp only [if_pos hlane, getLsbD_inject _ _ hi]
      by_cases htop : i = 7
      · rw [if_pos htop, if_pos (by omega), show i + (laneCount m b + 1) - 8 = laneCount m b by omega, ← count]
      · rw [if_neg htop, ih (by omega) hb' (by omega), show i + (laneCount m b + 1) = i + 1 + laneCount m b by omega]
    · simp only [if_neg hlane]
      exact ih (by omega) hb' hi

/-- Settles O41: of 752 bits every lane took eight, so that bit `k` of lane `b` is received bit `b + 94·k`. -/
theorem laneRotationIsTheTranspose : Obligations.LaneRotationIsTheTranspose := by
  intro stream p
  refine List.ext_getElem (by simp) fun b hb hb' => ?_
  have hb94 : b < 94 := by rwa [lanesAfter_length] at hb
  rw [packetBytes_get]
  refine BitVec.eq_of_getLsbD_eq fun k hk => ?_
  have eight : laneCount 752 b = 8 := by unfold laneCount; omega
  rw [lanesAfter_getLsbD _ (le_refl 752) hb hk, eight, if_pos (by omega), show k + 8 - 8 = k by omega,
    ← deinterleavedByte_getLsbD stream p b hk]
  simp

end Sys2Proof.Machine
end

section
/-! PROOFS. The host port: the address map, register and window reads, reads while a command is outstanding, and writes
(20_memory.md R36 to R43, 70_reset_and_hazards.md R115). -/

namespace Sys2Proof.Machine

/-! ## The address map (20_memory.md R36) -/

section
variable {a : HostAddr}

theorem locate_config (hlow : 0x0001C ≤ a.toNat) (hhigh : a.toNat ≤ 0x00028) :
    locate a = .config ((a.toNat - 0x0001C) / 4) := by
  unfold locate
  dsimp only
  iterate 8 rw [if_neg (by omega)]
  rw [if_pos hhigh]

/-- The map above the registers. -/
theorem locate_above_registers (h : 0x01000 ≤ a.toNat) : locate a =
    if a.toNat < 0x02000 then .lineOfsWin ((a.toNat - 0x01000) / 4)
    else if a.toNat < 0x03000 then .lineFlagsWin ((a.toNat - 0x02000) / 4)
    else if a.toNat < 0x04000 then .pktHdrWin ((a.toNat - 0x03000) / 4)
    else if a.toNat < 0x08000 then .pktByteWin (a.toNat - 0x04000)
    else if a.toNat < 0x0C000 then .pktPayloadWin (a.toNat - 0x08000)
    else if a.toNat < 0x10000 then .reserved
    else .bitstreamWin (a.toNat - 0x10000) := by
  unfold locate
  dsimp only
  iterate 10 rw [if_neg (by omega)]

theorem locate_reserved (h : (0x0002C ≤ a.toNat ∧ a.toNat < 0x01000) ∨ (0x0C000 ≤ a.toNat ∧ a.toNat < 0x10000)) :
    locate a = .reserved := by
  obtain ⟨hlow, hhigh⟩ | ⟨hlow, hhigh⟩ := h
  · unfold locate
    dsimp only
    iterate 9 rw [if_neg (by omega)]
    rw [if_pos hhigh]
  · rw [locate_above_registers (by omega)]
    iterate 5 rw [if_neg (by omega)]
    rw [if_pos hhigh]

theorem locate_lineOfsWin {n : Nat} (hn : n < 1024) (ha : a.toNat = 0x01000 + 4 * n) : locate a = .lineOfsWin n := by
  rw [locate_above_registers (by omega), if_pos (by omega), show (a.toNat - 0x01000) / 4 = n by omega]

theorem locate_lineFlagsWin {n : Nat} (hn : n < 1024) (ha : a.toNat = 0x02000 + 4 * n) :
    locate a = .lineFlagsWin n := by
  rw [locate_above_registers (by omega), if_neg (by omega), if_pos (by omega),
    show (a.toNat - 0x02000) / 4 = n by omega]

theorem locate_pktHdrWin {p : Nat} (hp : p < 1024) (ha : a.toNat = 0x03000 + 4 * p) : locate a = .pktHdrWin p := by
  rw [locate_above_registers (by omega), if_neg (by omega), if_neg (by omega), if_pos (by omega),
    show (a.toNat - 0x03000) / 4 = p by omega]

theorem locate_pktByteWin {o : Nat} (ho : o < 0x4000) (ha : a.toNat = 0x04000 + o) : locate a = .pktByteWin o := by
  rw [locate_above_registers (by omega)]
  iterate 3 rw [if_neg (by omega)]
  rw [if_pos (by omega), show a.toNat - 0x04000 = o by omega]

theorem locate_pktPayloadWin {o : Nat} (ho : o < 0x4000) (ha : a.toNat = 0x08000 + o) :
    locate a = .pktPayloadWin o := by
  rw [locate_above_registers (by omega)]
  iterate 4 rw [if_neg (by omega)]
  rw [if_pos (by omega), show a.toNat - 0x08000 = o by omega]

theorem locate_bitstreamWin {o : Nat} (ha : a.toNat = 0x10000 + o) : locate a = .bitstreamWin o := by
  rw [locate_above_registers (by omega)]
  iterate 6 rw [if_neg (by omega)]
  rw [show a.toNat - 0x10000 = o by omega]

end

/-! ## Reads (20_memory.md R41) -/

/-- Settles O44: the one location whose read can end the polling hazard is at address 4. -/
theorem readsHaveNoSideEffect : Obligations.ReadsHaveNoSideEffect := by
  intro s t a h
  obtain ⟨-, -, rfl⟩ := hostAccess_next h
  obtain ⟨v, d, hd, hread⟩ := readLocation_eq (locate a) s
  simp only [locate_status] at hread
  exact ⟨v, d, hd, hread⟩

theorem hostRead_eq {s : State} {a : HostAddr} (hr : s.inReset = false) (ha : a.toNat % 4 = 0) :
    hostRead a s = .next (readLocation (locate a) s) := hostAccess_eq hr ((aligned_iff a).mpr ha)

theorem readLocation_exact {l : Location} (hl : volatile l = false) (s : State) :
    (readLocation l s).reads = content s l :: s.reads ∧ (readLocation l s).draws = s.draws := by
  unfold readLocation
  rw [if_neg (by simp [hl])]
  dsimp only
  split <;> exact ⟨rfl, rfl⟩

theorem readLocation_drawn {l : Location} {s : State} (hl : volatile l = true) (ho : outstanding s = true) :
    readLocation l s = record (Config.draw 32 s.draws) (spendDraws 1 s) := if_pos (by simp [hl, ho])

theorem volatile_of_isWindow {l : Location} (h : isWindow l = true) : volatile l = true := by
  cases l with
  | cmd | status | lfsr | offset | result | width | height | config k | reserved => cases h
  | _ => rfl

/-- The registers that read exactly at all times (20_memory.md R43). -/
theorem volatile_locate_eq_false {a : HostAddr} (ha : a.toNat % 4 = 0)
    (h : a.toNat = 0x00000 ∨ a.toNat = 0x00004 ∨ (0x00014 ≤ a.toNat ∧ a.toNat ≤ 0x00028)) :
    volatile (locate a) = false := by
  have at_register (k : HostAddr) (hk : volatile (locate k) = false) (hak : a.toNat = k.toNat) :
      volatile (locate a) = false := by rwa [BitVec.eq_of_toNat_eq hak]
  obtain hcmd | hstatus | ⟨hlow, hhigh⟩ := h
  · exact at_register 0x00000#17 (by decide) hcmd
  · exact at_register 0x00004#17 (by decide) hstatus
  · obtain hwidth | hheight | hconfig : a.toNat = 0x00014 ∨ a.toNat = 0x00018 ∨ 0x0001C ≤ a.toNat := by omega
    · exact at_register 0x00014#17 (by decide) hwidth
    · exact at_register 0x00018#17 (by decide) hheight
    · rw [locate_config hconfig hhigh, volatile]

theorem volatile_locate_eq_true {a : HostAddr}
    (h : a.toNat = 0x00008 ∨ a.toNat = 0x0000C ∨ a.toNat = 0x00010 ∨ (0x01000 ≤ a.toNat ∧ a.toNat < 0x0C000) ∨
      0x10000 ≤ a.toNat) : volatile (locate a) = true := by
  have at_register (k : HostAddr) (hk : volatile (locate k) = true) (hak : a.toNat = k.toNat) :
      volatile (locate a) = true := by rwa [BitVec.eq_of_toNat_eq hak]
  obtain hlfsr | hofs | hresult | hwindow := h
  · exact at_register 0x00008#17 (by decide) hlfsr
  · exact at_register 0x0000C#17 (by decide) hofs
  · exact at_register 0x00010#17 (by decide) hresult
  · exact volatile_of_isWindow (isWindow_locate hwindow)

/-- Settles O45: the address decides whether the location is volatile. -/
theorem readsWhileBusy : Obligations.ReadsWhileBusy := by
  refine fun s a hr ho ha => ⟨fun h => ?_, fun h => ?_⟩
  · exact ⟨_, hostRead_eq hr ha, readLocation_exact (volatile_locate_eq_false ha h) s⟩
  · refine ⟨_, hostRead_eq hr ha, ?_⟩
    rw [readLocation_drawn (volatile_locate_eq_true h) ho]
    exact ⟨rfl, rfl⟩

/-! ## Registers (10_state.md R25) -/

/-- A CONFIG word of two half words. -/
theorem toNat_halfWords {hi lo : Nat} (hhi : hi ≤ 65535) (hlo : lo ≤ 65535) :
    (BitVec.ofNat 16 hi ++ BitVec.ofNat 16 lo).toNat = lo + 65536 * hi := by
  rw [toNat_append_eq_add, BitVec.toNat_ofNat, BitVec.toNat_ofNat, Nat.mod_eq_of_lt (by omega),
    Nat.mod_eq_of_lt (by omega)]
  rfl

section
variable (p : Params)

theorem configWord_0_toNat : (configWord p 0).toNat = p.l + 65536 * p.z := by
  obtain ⟨-, -, -, -, ⟨-, hl⟩, -, hz⟩ := p.legal
  exact toNat_halfWords (by omega) (by omega)

theorem configWord_1_toNat : (configWord p 1).toNat = p.seed0.toNat :=
  BitVec.toNat_setWidth_of_le (by decide)

theorem configWord_2_toNat : (configWord p 2).toNat = p.n + 65536 * p.d := by
  obtain ⟨⟨-, hn⟩, ⟨-, hd⟩, -⟩ := p.legal
  exact toNat_halfWords hd hn

theorem configWord_3_toNat : (configWord p 3).toNat = p.ph + 65536 * p.row0 := by
  obtain ⟨-, ⟨-, hd⟩, hph, hrow, -⟩ := p.legal
  exact toNat_halfWords hrow (by omega)

end

theorem hostRead_register {s : State} {k : HostAddr} {l : Location} (hr : s.inReset = false)
    (ho : outstanding s = false) (ha : k.toNat % 4 = 0) (hl : locate k = l) :
    ∃ t, hostRead k s = .next t ∧ t.reads = content s l :: s.reads := hl ▸ hostRead_exact hr ho ha

theorem hostRead_configWord {s : State} {k : HostAddr} {j : Nat} {v : Word} (hr : s.inReset = false)
    (ho : outstanding s = false) (ha : k.toNat % 4 = 0) (hl : locate k = .config j)
    (hv : v.toNat = (configWord s.params j).toNat) : ∃ t, hostRead k s = .next t ∧ t.reads = v :: s.reads := by
  rw [BitVec.eq_of_toNat_eq hv]
  exact hostRead_register hr ho ha hl

/-- Settles O46: each address shows its register. -/
theorem registerReads : Obligations.RegisterReads := by
  intro s hr ho a v h
  obtain ⟨rfl, rfl⟩ | ⟨rfl, rfl⟩ | ⟨rfl, rfl⟩ | ⟨rfl, rfl⟩ | ⟨rfl, rfl⟩ | ⟨rfl, rfl⟩ | ⟨rfl, rfl⟩ | ⟨rfl, hv⟩ |
    ⟨rfl, hv⟩ | ⟨rfl, hv⟩ | ⟨rfl, hv⟩ := h
  · exact hostRead_register (l := .cmd) hr ho (by decide) (by decide)
  · exact hostRead_register (l := .status) hr ho (by decide) (by decide)
  · exact hostRead_register (l := .lfsr) hr ho (by decide) (by decide)
  · exact hostRead_register (l := .offset) hr ho (by decide) (by decide)
  · exact hostRead_register (l := .result) hr ho (by decide) (by decide)
  · exact hostRead_register (l := .width) hr ho (by decide) (by decide)
  · exact hostRead_register (l := .height) hr ho (by decide) (by decide)
  · exact hostRead_configWord (j := 0) hr ho (by decide) (by decide) (hv.trans (configWord_0_toNat _).symm)
  · exact hostRead_configWord (j := 1) hr ho (by decide) (by decide) (hv.trans (configWord_1_toNat _).symm)
  · exact hostRead_configWord (j := 2) hr ho (by decide) (by decide) (hv.trans (configWord_2_toNat _).symm)
  · exact hostRead_configWord (j := 3) hr ho (by decide) (by decide) (hv.trans (configWord_3_toNat _).symm)

/-! ## Windows (20_memory.md R36, R38, R39) -/

/-- Lane `i` of a word holds byte `o + i`, little-endian. -/
theorem lanes_getLsbD (f : Nat → Byte) (o : Nat) {i j : Nat} (hi : i < 4) (hj : j < 8) :
    (lanes f o).getLsbD (8 * i + j) = (f (o + i)).getLsbD j := by
  unfold lanes
  simp only [BitVec.getLsbD_append]
  obtain rfl | rfl | rfl | rfl : i = 0 ∨ i = 1 ∨ i = 2 ∨ i = 3 := by omega
  · simp [hj]
  · simp [hj]
  · simp [show ¬ 16 + j < 8 by omega, show ¬ 16 + j - 8 < 8 by omega, show 16 + j - 8 - 8 = j by omega, hj]
  · simp [show ¬ 24 + j < 8 by omega, show ¬ 24 + j - 8 < 8 by omega, show ¬ 24 + j - 8 - 8 < 8 by omega,
      show 24 + j - 8 - 8 - 8 = j by omega]

theorem lanes_extractLsb' (f : Nat → Byte) (o : Nat) {i : Nat} (hi : i < 4) :
    (lanes f o).extractLsb' (8 * i) 8 = f (o + i) := by
  refine BitVec.eq_of_getLsbD_eq fun j hj => ?_
  rw [BitVec.getLsbD_extractLsb', lanes_getLsbD f o hi hj]
  simp [hj]

/-- A packet's header word: its address and, from bit 16, its continuity. -/
theorem pktHdrWord_toNat (s : State) (p : Nat) : (pktHdrWord s p).toNat =
    if p < 82 then (packetAddress s p).toNat + 65536 * (packetContinuity s p).toNat else 0 := by
  have haddr := (packetAddress s p).isLt
  have hcont := (packetContinuity s p).isLt
  unfold pktHdrWord Config.pktsPerFrame
  split
  · rw [BitVec.toNat_setWidth_of_le (by decide), toNat_append_eq_add, toNat_append_eq_add]
    simp only [BitVec.toNat_ofNat]
    omega
  · rfl

/-- A bitstream byte is MSB-first. -/
theorem bitstreamByte_getLsbD (s : State) (i : Nat) {k : Nat} (hk : k < 8) :
    BitVec.ofBool ((bitstreamByte s i).getLsbD (7 - k)) =
      if 8 * i + k < 99 * s.params.l then streamRead s (8 * i + k) else 0#1 := by
  rw [bitstreamByte, byteOfBits_getLsbD _ _ (by omega), show 7 - (7 - k) = k by omega]
  rfl

/-- Settles O47: each window address shows its word, lane by lane. -/
theorem windowReads : Obligations.WindowReads := by
  intro s hr ho a ha
  obtain ⟨t, hread, hreads⟩ := hostRead_exact hr ho ha
  refine ⟨t, content s (locate a), hread, hreads, fun n hn h => ?_, fun n hn h => ?_, fun p hp h => ?_,
    fun o i hi h ho => ?_, fun o i hi h ho => ?_, fun o i k hi hk h => ?_⟩
  · rw [locate_lineOfsWin hn h]
    rfl
  · rw [locate_lineFlagsWin hn h]
    rfl
  · rw [locate_pktHdrWin hp h]
    exact pktHdrWord_toNat s p
  · rw [locate_pktByteWin ho h]
    exact lanes_extractLsb' _ o hi
  · rw [locate_pktPayloadWin ho h]
    exact lanes_extractLsb' _ o hi
  · rw [locate_bitstreamWin h, content, lanes_getLsbD _ o hi (by omega)]
    exact bitstreamByte_getLsbD s (o + i) hk

/-! ## Writes (20_memory.md R37) -/

theorem hostWrite_eq {s : State} {k : HostAddr} (hr : s.inReset = false) (ha : k.toNat % 4 = 0) (v : Word) :
    hostWrite k v s = .next (writeLocation (locate k) v s) := hostAccess_eq hr ((aligned_iff k).mpr ha)

theorem writeRegister_idle {s : State} (he : s.eng = .idle) (t : State) : writeRegister t s = t := by
  simp [writeRegister, isBusy, he]

/-- Settles O48: each of the four registers keeps its low bits of the word. -/
theorem idleRegisterWrites : Obligations.IdleRegisterWrites := by
  intro s v hr he
  have lfsr : v.setWidth 15 = v.extractLsb' 0 15 := BitVec.setWidth_eq_extractLsb' (by decide)
  have extent : v.setWidth 16 = v.extractLsb' 0 16 := BitVec.setWidth_eq_extractLsb' (by decide)
  refine ⟨?_, ?_, ?_, ?_⟩
  · rw [hostWrite_lfsr_idle hr he, lfsr]
  · rw [hostWrite_eq hr (by decide), show locate 0x0000C#17 = .offset by decide, writeLocation,
      writeRegister_idle he]
  · rw [hostWrite_eq hr (by decide), show locate 0x00014#17 = .width by decide, writeLocation,
      writeRegister_idle he, extent]
  · rw [hostWrite_eq hr (by decide), show locate 0x00018#17 = .height by decide, writeLocation,
      writeRegister_idle he, extent]

theorem writeLocation_of_not_writable {l : Location} (h : writable l = false) (v : Word) (s : State) :
    writeLocation l v s = s := by
  cases l with
  | cmd | lfsr | offset | width | height => cases h
  | _ => rfl

/-- Settles O49: a reserved address is not volatile and holds 0, and the five writable registers stand elsewhere. -/
theorem reservedAndReadOnlyAddresses : Obligations.ReservedAndReadOnlyAddresses := by
  refine fun s a v hr ha => ⟨fun h => ?_, fun h => ?_⟩
  · refine ⟨_, hostRead_eq hr ha, ?_⟩
    rw [locate_reserved h]
    obtain ⟨hreads, -⟩ := readLocation_exact (l := .reserved) rfl s
    exact hreads
  · have readOnly : writable (locate a) = false := by
      rw [Bool.eq_false_iff, ne_eq, writable_locate_iff]
      omega
    rw [hostWrite_eq hr ha, writeLocation_of_not_writable readOnly]

end Sys2Proof.Machine
end
